-- ==== Sys2Proof/Word.lean ====
section
/-!
DEFINITION. The word types of the block. Every register of `10_state.md` rule R24 holds one of these, a
2-bit index, the 9-bit fill level or a flag.
-/

namespace Sys2Proof

/-- One byte: a cell of a byte buffer, `IMM8`, `ERR`, `TXLEN`, `RATE` (rule R24). -/
abbrev Byte := BitVec 8

/-- A 16-bit word: a frame header or one gyroscope count (rule R24). -/
abbrev Half := BitVec 16

/-- A 32-bit word: what one register access moves (rule R50) and one command word (rule R61). -/
abbrev Word := BitVec 32

/-- A 64-bit word: `Q64`, `TS0`, `XTS[i]` (rule R24). -/
abbrev DWord := BitVec 64

end Sys2Proof
end

