-- ==== Sys2Proof/Machine/Bytes.lean ====
section
/-!
DEFINITION. Byte strings and byte order (`00_scope.md` section 5): slices, little-endian assembly and
extraction. Byte order is little-endian everywhere and cannot be switched (rule R48).
-/

namespace Sys2Proof

/-- `B[i]`, for an index inside the string. -/
def byteAt (bs : List Byte) (i : Nat) : Byte := bs.getD i 0#8

/-- `B[a..b)`: bytes `a` up to but not including `b`. -/
def slice (bs : List Byte) (a b : Nat) : List Byte := (bs.drop a).take (b - a)

/-- `le16(v) = [v[7:0], v[15:8]]`. -/
def le16 (v : Half) : List Byte := [v.extractLsb' 0 8, v.extractLsb' 8 8]

/-- `le32(v) = [v[7:0], v[15:8], v[23:16], v[31:24]]`. -/
def le32 (v : Word) : List Byte :=
  [v.extractLsb' 0 8, v.extractLsb' 8 8, v.extractLsb' 16 8, v.extractLsb' 24 8]

/-- `from_le16(b) = b[0] + 256·b[1]`. -/
def fromLe16 (bs : List Byte) : Half := byteAt bs 1 ++ byteAt bs 0

/-- `from_le32(b) = b[0] + 2^8·b[1] + 2^16·b[2] + 2^24·b[3]`. -/
def fromLe32 (bs : List Byte) : Word := byteAt bs 3 ++ byteAt bs 2 ++ byteAt bs 1 ++ byteAt bs 0

end Sys2Proof
end

