-- ==== Sys2Proof/Config.lean ====
section
/-!
DEFINITION. What is fixed for this hardware and is not state (rule R26): the source's constants and the
parameters of `00_scope.md` section 4, the shape of the number format `NUM` (rule R110), and the free values
the spec leaves open. A free value is an `opaque` constant with no body.
-/

namespace Sys2Proof

/-! ### Constants of `00_scope.md` section 4 -/

/-- `FRAME_LEN`: a frame is exactly 244 bytes (rule R80). -/
def Config.frameLen : Nat := 244

@[simp] theorem Config.frameLen_eq : Config.frameLen = 244 := rfl

/-- `PAYLOAD_MAX`: the largest legal payload size, and the size of the payload slot (rule R80). -/
def Config.payloadMax : Nat := 236

@[simp] theorem Config.payloadMax_eq : Config.payloadMax = 236 := rfl

/-- `START_BYTE` (rule R80). -/
def Config.startByte : Byte := 0x02#8

@[simp] theorem Config.startByte_eq : Config.startByte = 0x02#8 := rfl

/-- `UBUF_CAP`: the capacity of the unpacker buffer (rule R16). -/
def Config.ubufCap : Nat := 244

@[simp] theorem Config.ubufCap_eq : Config.ubufCap = 244 := rfl

/-- `SINCOS_ULP`: the accuracy of sine and cosine, in units in the last place (rule R113). -/
def Config.sincosUlp : Nat := 1

@[simp] theorem Config.sincosUlp_eq : Config.sincosUlp = 1 := rfl

/-- The six legal sampling rates of rule R131, in hertz. -/
inductive SampleRate where
  | hz1 | hz10 | hz25 | hz50 | hz100 | hz200
  deriving DecidableEq, Repr

/-! ### The number format `NUM` -/

/-- The real constants that the rules hand to `fconst` (rules R111, R132): `K1`, `K2`, `GYRK`, 0, 1 and
`HDT(rate)`, eleven in all. Rule R110 types `fconst` on all reals; the rules apply it to these values and to
no other, and a name for each keeps what the commands run computable (log 13). `WholeNum` has it on all reals. -/
inductive RealConst where
  | k1 | k2 | gyrk | zero | one
  | halfPeriod (rate : SampleRate)
  deriving DecidableEq, Repr

/-- A quaternion `(w, x, y, z)`, indexed `q[0] = w` to `q[3] = z` (rule R116). -/
structure Quat (F : Type) where
  w : F
  x : F
  y : F
  z : F
  deriving DecidableEq, Repr

/-- The part of the number format `NUM` of rule R110 that a command computes with, on the carrier `F`: each
function depends on its arguments alone. The whole record, with `val` and `fconst` on all reals, is `WholeNum`
of `Machine/Reference.lean`; those two have real numbers on one side and enter no command. -/
structure Num (F : Type) where
  fconst : RealConst → F
  i2f    : Int → F
  fadd   : F → F → F
  fsub   : F → F → F
  fmul   : F → F → F
  fdiv   : F → F → F
  fsqrt  : F → F
  fsin   : F → F
  fcos   : F → F
  flt0   : F → Bool

/-! ### Free values -/

/-- FREE VALUE (log 1). The sine the hardware computes at a binary32 argument: rule R113 does not fix it bit
for bit. `F32.fsin` keeps it within the accuracy the rule states. -/
opaque Config.freeSin : Word → Word

/-- FREE VALUE (log 1). The cosine the hardware computes at a binary32 argument, as `Config.freeSin`. -/
opaque Config.freeCos : Word → Word

/-- FREE VALUE (log 2). The sign and payload of a NaN that an operation on these two operands produces:
IEEE 754 leaves both open, and no command ever produces one (item I15 of `93_implementation_defined.md`). -/
opaque Config.freeNaN : Word → Word → Word

end Sys2Proof
end

