-- ==== Sys2Proof/Elements.lean ====
section
/-!
DEFINITION. The names of the host-visible elements of rule R24: word registers, 64-bit registers, byte
buffers, and the named result codes of rule R160. Offsets, values and access rights are in `Machine/`.
-/

namespace Sys2Proof

/-- The registers of rule R24 that occupy one 32-bit word, by name and index. -/
inductive Reg32 where
  | cmd | status | err | dropcnt | ulen
  | txhdr | txlen | dhdr | dlen | rxhdr | rxlen | rate
  | qd (c : Fin 4)
  | qflags | xflags
  | gyr (i : Fin 8) (a : Fin 3)
  | xq (i : Fin 8) (c : Fin 4)
  deriving DecidableEq, Repr

/-- The 64-bit registers of rule R24, each two words. -/
inductive Reg64 where
  | ts0 | q64
  | xts (i : Fin 8)
  deriving DecidableEq, Repr

/-- What one aligned word offset selects: a register of one word, or the low or high half of a 64-bit
register (rules R24, R41). -/
inductive WordSlot where
  | reg (r : Reg32)
  | lo (r : Reg64)
  | hi (r : Reg64)
  deriving DecidableEq, Repr

/-- The host-visible byte buffers of rule R24. -/
inductive Buf where
  | txpay | fbuf | rxpay
  deriving DecidableEq, Repr

/-- What an offset of the address space belongs to (the table of rule R45). -/
inductive Region where
  | words
  | bytes (b : Buf)
  | unmapped
  deriving DecidableEq, Repr

/-- The errors a command can raise (rule R160); success, code 0, is not one of them. -/
inductive ErrorCode where
  | badStartByte | badPayloadSize | badCrc | badCommand | badRate | rxPending
  deriving DecidableEq, Repr

/-- The answer of `frame_check` (rule R83). -/
inductive FrameVerdict where
  | ok | badStartByte | badPayloadSize | badCrc
  deriving DecidableEq, Repr

end Sys2Proof
end

