-- ==== Sys2Proof/Syntax.lean ====
section
/-!
DEFINITION. The commands of the block: one constructor per row of `opcode_table.json` (rule R62).
-/

namespace Sys2Proof

/-- A command. Only `FEED` has an operand in the command word, the byte `IMM8` (rules R61, R63); every other
operand is implicit. -/
inductive Instr where
  /-- `RESET` (rule R150). -/
  | reset
  /-- `FENC`: encode a frame (rule R86). -/
  | fenc
  /-- `FDEC`: check and decode a whole frame (rule R90). -/
  | fdec
  /-- `FEED b`: give the unpacker one byte (rule R95). -/
  | feed (b : Byte)
  /-- `RXACK`: acknowledge the emitted frame (rule R99). -/
  | rxack
  /-- `QDEC`: decode a quaternion word (rule R119). -/
  | qdec
  /-- `XTRAP`: reconstruct a packed sample (rule R130). -/
  | xtrap
  deriving DecidableEq, Repr

end Sys2Proof
end

