-- ==== Sys2Proof/WellFormed.lean ====
section
/-!
DEFINITION. Which terms are well formed. A command's one operand is a byte by its type, so every `Instr` is
well formed. The textual statements of rules R65 to R67 carry plain numbers, and those are what can be ill
formed: `Statement.wellFormed` is the check an assembler makes before it expands one.
-/

namespace Sys2Proof

/-- Every command is well formed: `FEED` carries a byte (rule R63) and no other command carries anything
(rule R61). -/
def Instr.wellFormed : Instr → Bool
  | .reset  => true
  | .fenc   => true
  | .fdec   => true
  | .feed _ => true
  | .rxack  => true
  | .qdec   => true
  | .xtrap  => true

/-- One statement of the notation of rules R65 to R67, with its numbers as they are written. `FEEDA` is not
here: what it does after each byte depends on what the host reads (`Machine/Stream.lean`, `feedAll`). -/
inductive Statement where
  /-- A command statement with no operand, or `FEED` with its byte already checked (R65). -/
  | command (i : Instr)
  /-- `FEED b` as written (R65). -/
  | feed (b : Nat)
  /-- `CMDW w`: a raw command word (R65). -/
  | cmdw (w : Nat)
  /-- `WR reg, v` (R66). -/
  | wr (r : Reg32) (v : Nat)
  /-- `WR64 reg, v` with the 64-bit pattern `v` (R66). -/
  | wr64 (r : Reg64) (v : Nat)
  /-- `WRB buf[j], b` (R66). -/
  | wrb (b : Buf) (j : Nat) (v : Nat)
  /-- `RD reg` (R66). -/
  | rd (r : Reg32)
  /-- `RD64 reg` (R66). -/
  | rd64 (r : Reg64)
  /-- `RDB buf[j]` (R66). -/
  | rdb (b : Buf) (j : Nat)
  /-- `FEEDS b0 … bn` (R67). -/
  | feeds (bs : List Nat)
  /-- `WRS buf[j], b0 … bn` (R67). -/
  | wrs (b : Buf) (j : Nat) (bs : List Nat)
  /-- `WRG i, gx, gy, gz` with signed counts (R67). -/
  | wrg (i : Nat) (gx gy gz : Int)
  /-- `LDFRAME b0 … b243` (R67). -/
  | ldframe (bs : List Nat)
  deriving DecidableEq, Repr

/-- The number of bytes of a buffer, as a bound on the index of a statement (rule R24). -/
def Buf.indexBound : Buf → Nat
  | .txpay => 236
  | .fbuf  => 244
  | .rxpay => 236

/-- The buffers that a `WRB` statement may name (rule R66). -/
def Buf.assemblerWritable : Buf → Bool
  | .txpay | .fbuf => true
  | .rxpay => false

/-- A written byte is in 0..255 (rule R65: "An assembler must reject `FEED b` with `b` outside 0..255"). -/
def isByte (b : Nat) : Bool := decide (b ≤ 255)

/-- A gyroscope count is in −32768..32767 (rule R133). -/
def isCount (g : Int) : Bool := decide (-32768 ≤ g ∧ g ≤ 32767)

/-- What an assembler checks of a statement before it expands it (rules R65 to R67): that each number fits where
the expansion puts it, and that a 64-bit register or a buffer is one that the statement's row names. `WR` and
`RD` may name every word register, `CMD` and the read-only ones among them, as rule R66 has it; an access that
this leads to is then refused by rule R46. Rule R65 names the rejection of `FEED` alone; the others are the
model's choice (log 15). So is what rule R67's form `b0 … bn` leaves open: `FEEDS` and `WRS` with no byte at all are
accepted and expand to no action (DESIGN CHOICE, log 15). -/
def Statement.wellFormed : Statement → Bool
  | .command i    => i.wellFormed
  | .feed b       => isByte b
  | .cmdw w       => decide (w < 2 ^ 32)
  | .wr _ v       => decide (v < 2 ^ 32)
  | .wr64 r v     => (r == .ts0 || r == .q64) && decide (v < 2 ^ 64)
  | .wrb b j v    => b.assemblerWritable && decide (j < b.indexBound) && isByte v
  | .rd _         => true
  | .rd64 _       => true
  | .rdb b j      => decide (j < b.indexBound)
  | .feeds bs     => bs.all isByte
  | .wrs b j bs   => b.assemblerWritable && decide (j + bs.length ≤ b.indexBound) && bs.all isByte
  | .wrg i x y z  => decide (i < 8) && isCount x && isCount y && isCount z
  | .ldframe bs   => decide (bs.length = 244) && bs.all isByte

end Sys2Proof
end

