-- ==== Sys2Proof/Decode.lean ====
section
/-!
DEFINITION. Command decode (rules R60 to R64), total on any word and on any bytes, and the encoder written
from the same table.
-/

namespace Sys2Proof

/-- Why a word selects no command: the three groups of illegal words that rule R64 names, and a byte string
too short to hold a word. -/
inductive DecodeError where
  /-- Fewer than the four bytes of a command word (rule R61). -/
  | tooShort
  /-- `w[31:16] ≠ 0`. -/
  | reservedBits
  /-- `OPC` is not one of the seven operation codes. -/
  | unknownOpcode
  /-- A format-`Z` operation code with `IMM8 ≠ 0`. -/
  | nonzeroImm
  deriving DecidableEq, Repr

/-- A row of the opcode map of rule R62: a word `w` matches when `w & mask = pattern`. -/
structure OpcodeRow where
  pattern : Word
  mask    : Word
  instr   : Byte → Instr

/-- `IMM8 = w[15:8]` (rule R63), used as is. -/
def imm8 (w : Word) : Byte := w.extractLsb' 8 8

/-- `OPC = w[7:0]` (rule R61). -/
def opc (w : Word) : Byte := w.extractLsb' 0 8

/-- The opcode map, complete (rule R62). -/
def opcodeMap : List OpcodeRow :=
  [ ⟨0x00000001#32, 0xFFFFFFFF#32, fun _ => .reset⟩,
    ⟨0x00000010#32, 0xFFFFFFFF#32, fun _ => .fenc⟩,
    ⟨0x00000011#32, 0xFFFFFFFF#32, fun _ => .fdec⟩,
    ⟨0x00000012#32, 0xFFFF00FF#32, fun b => .feed b⟩,
    ⟨0x00000013#32, 0xFFFFFFFF#32, fun _ => .rxack⟩,
    ⟨0x00000020#32, 0xFFFFFFFF#32, fun _ => .qdec⟩,
    ⟨0x00000030#32, 0xFFFFFFFF#32, fun _ => .xtrap⟩ ]

/-- `(w & mask) = match` (rule R62). -/
def OpcodeRow.accepts (r : OpcodeRow) (w : Word) : Bool := w &&& r.mask == r.pattern

/-- Which group of rule R64 an illegal word belongs to. All are treated alike (item I2). -/
def illegalReason (w : Word) : DecodeError :=
  if w.extractLsb' 16 16 ≠ 0#16 then .reservedBits
  else if opc w ∈ [0x01#8, 0x10#8, 0x11#8, 0x12#8, 0x13#8, 0x20#8, 0x30#8] then .nonzeroImm
  else .unknownOpcode

/-- Decode one command word. It depends on the word alone, never on state (rule R60). -/
def decodeWord (w : Word) : Except DecodeError Instr :=
  match opcodeMap.find? (fun r => r.accepts w) with
  | some r => .ok (r.instr (imm8 w))
  | none   => .error (illegalReason w)

/-- Decode the command word whose four bytes stand first in a byte string, low byte first (rule R48), and
return the rest. Every command word is 32 bits long (rule R61). -/
def decode : List Byte → Except DecodeError (Instr × List Byte)
  | b0 :: b1 :: b2 :: b3 :: rest =>
    match decodeWord (fromLe32 [b0, b1, b2, b3]) with
    | .ok i    => .ok (i, rest)
    | .error e => .error e
  | _ => .error .tooShort

/-- The operation code of a command (rule R62). -/
def Instr.opc : Instr → Byte
  | .reset  => 0x01#8
  | .fenc   => 0x10#8
  | .fdec   => 0x11#8
  | .feed _ => 0x12#8
  | .rxack  => 0x13#8
  | .qdec   => 0x20#8
  | .xtrap  => 0x30#8

/-- The `IMM8` field of a command: the byte of `FEED`, 0 for every other command (rules R61, R63). -/
def Instr.imm8 : Instr → Byte
  | .feed b => b
  | .reset | .fenc | .fdec | .rxack | .qdec | .xtrap => 0#8

/-- The command word: `RSV = 0` in bits 31:16, `IMM8` in 15:8, `OPC` in 7:0 (rule R61). -/
def encodeWord (i : Instr) : Word := 0#16 ++ i.imm8 ++ i.opc

/-- The four bytes of the command word, low byte first. -/
def encode (i : Instr) : List Byte := le32 (encodeWord i)

/-- The command the decoder reads from `w`, an instruction of `nbits` bits numbered as the opcode table
numbers them; every bit of the 32-bit command word above `nbits` is 0. -/
def decodeTableWord (nbits w : Nat) : Option Instr :=
  match decode (le32 (BitVec.ofNat 32 (w % 2 ^ nbits))) with
  | .ok (i, _) => some i
  | .error _   => none

end Sys2Proof
end

