-- ==== Sys2Proof/Machine/State.lean ====
section
/-!
DEFINITION. The state of the block as plain data, the inputs it reacts to, and why a step can stop. The
elements and widths are those of rule R24, which is the whole list; the reset values are those of rule R25.
The last two fields are the model's own: the host's actions still to come and the data the last one returned.
-/

namespace Sys2Proof.Machine

/-- The byte buffers of the address space, as (offset, byte) pairs: offsets strictly rising, and no pair
whose byte is `Memory.blank`. -/
abbrev Memory := List Host.Cell

/-- What an offset with no pair reads as: every byte of every buffer is `0x00` at reset (rule R25). -/
abbrev Memory.blank : Byte := 0x00#8

/-- The canonical form of a memory. -/
abbrev Memory.wf (m : Memory) : Prop :=
  m.Pairwise (fun c d => c.1 < d.1) ∧ ∀ c ∈ m, c.2 ≠ Memory.blank

/-- The three things a host can do to the block (rule R40), as the four access primitives of rules R41 to
R44. `Cmd(w)` is `regWrite 0x000 w` (rule R47). A `memRead` or `memWrite` whose size is not 1 is refused,
whatever its datum (rule R46). -/
inductive HostAction where
  | regRead  (off : Nat)
  | regWrite (off : Nat) (w : Word)
  | memRead  (off size : Nat)
  | memWrite (off size : Nat) (b : Byte)
  deriving DecidableEq, Repr

/-- What happens at the block's boundary: a host action, or the external power-on reset of rule R180. -/
inductive Event where
  | host (a : HostAction)
  | powerOnReset
  deriving DecidableEq, Repr

/-- The data a host read returns: a word (rule R41) or a byte (rule R43). -/
inductive ReadData where
  | word (w : Word)
  | byte (b : Byte)
  deriving DecidableEq, Repr

/-- Why a host access is refused: the cases of rule R46. -/
inductive AccessError where
  /-- A read or write of an unmapped offset. -/
  | unmapped
  /-- A word access whose offset is not a multiple of 4. -/
  | misaligned
  /-- A word access to a byte buffer, or a byte access to a word register. -/
  | wrongWidth
  /-- An access of a size other than 32 bits or 8 bits. -/
  | badSize
  /-- A write to a host read-only element. -/
  | readOnly
  /-- A read of `CMD`. -/
  | writeOnly
  deriving DecidableEq, Repr

/-- The faults that stop the block: none. Every error of rule R160 is a result code in `ERR` after which the
block goes on (rules R161, R170), and the block "never halts, never locks up and has no terminal state"
(rule R190). -/
inductive Fault where
  deriving DecidableEq, Repr

/-- Why the model gives an input no meaning. -/
inductive Refusal where
  /-- A command not modelled yet, by its mnemonic. Raised by no command: every one has its meaning. Safe. -/
  | notModelled (mnemonic : String)
  /-- A refused host access (rule R46: "a host program that makes one has no meaning in the model"). Raised
  by the host port, never by a command. Safe: the block changes no state there. -/
  | refusedAccess (why : AccessError)
  deriving DecidableEq, Repr

/-- The state of the block: every element of rule R24 (`CMD` holds no state, rule R23), and the model's own
record of the host's side. -/
structure State where
  /-- `ERR` (R19): the result code of the command that ended last. -/
  err : Byte
  /-- `DROPCNT` (R17): bytes discarded by the unpacker, modulo 2^32. -/
  dropcnt : Word
  /-- `ULEN` (R16): the fill level of the unpacker buffer. -/
  ulen : BitVec 9
  /-- `UBUF` (R16), hidden: the unpacker buffer. -/
  ubuf : Vector Byte 244
  /-- `TXHDR` (R13): the header to encode. -/
  txhdr : Half
  /-- `TXLEN` (R13): the payload size to encode. -/
  txlen : Byte
  /-- `DHDR` (R15): the header of the frame decoded last. -/
  dhdr : Half
  /-- `DLEN` (R15): the payload size of the frame decoded last. -/
  dlen : Byte
  /-- `STATUS.RXVALID` (R18): an emitted frame waits. -/
  rxvalid : Bool
  /-- `RXHDR` (R18): the header of the frame emitted last. -/
  rxhdr : Half
  /-- `RXLEN` (R18): the payload size of the frame emitted last. -/
  rxlen : Byte
  /-- `RATE` (R21): the sampling rate in hertz. -/
  rate : Byte
  /-- `TS0` (R21): the timestamp of sample 0, in nanoseconds, two's complement. -/
  ts0 : DWord
  /-- `Q64` (R20): the packed quaternion word. -/
  q64 : DWord
  /-- `QD[0..3]` (R20): the quaternion decoded last, as binary32 words. -/
  qd : Quat Word
  /-- `QFLAGS.QREST` (R20). -/
  qrest : Bool
  /-- `QFLAGS.QMAG` (R20). -/
  qmag : Bool
  /-- `QFLAGS.QAXIS` (R20). -/
  qaxis : BitVec 2
  /-- `XFLAGS.XREST` (R22). -/
  xrest : Bool
  /-- `XFLAGS.XMAG` (R22). -/
  xmag : Bool
  /-- `XFLAGS.XAXIS` (R22). -/
  xaxis : BitVec 2
  /-- `GYR[i][a]` (R21): raw gyroscope counts, two's complement. -/
  gyr : Vector (Vector Half 3) 8
  /-- `XQ[i]` (R22): the reconstructed quaternions, as binary32 words. -/
  xq : Vector (Quat Word) 8
  /-- `XTS[i]` (R22): the timestamps of the samples. -/
  xts : Vector DWord 8
  /-- `TXPAY`, `FBUF`, `RXPAY` (R13, R14, R18), by offset from `BASE` (R45). -/
  mem : Memory
  /-- MODEL'S OWN (log 3): the events still to come, in the order the host issues them (R40). -/
  pending : List Event
  /-- MODEL'S OWN (log 3): the data that the last step's read returned to the host. -/
  returned : Option ReadData
  deriving DecidableEq, Repr

/-- The block right after reset: every element of rule R24 is zero (rules R25, R180), and the host has
issued nothing. -/
def State.reset : State where
  err := 0#8
  dropcnt := 0#32
  ulen := 0#9
  ubuf := Vector.replicate 244 0x00#8
  txhdr := 0#16
  txlen := 0#8
  dhdr := 0#16
  dlen := 0#8
  rxvalid := false
  rxhdr := 0#16
  rxlen := 0#8
  rate := 0#8
  ts0 := 0#64
  q64 := 0#64
  qd := ⟨0#32, 0#32, 0#32, 0#32⟩
  qrest := false
  qmag := false
  qaxis := 0#2
  xrest := false
  xmag := false
  xaxis := 0#2
  gyr := Vector.replicate 8 (Vector.replicate 3 0#16)
  xq := Vector.replicate 8 ⟨0#32, 0#32, 0#32, 0#32⟩
  xts := Vector.replicate 8 0#64
  mem := []
  pending := []
  returned := none

end Sys2Proof.Machine
end

