-- ==== Sys2Proof/Machine/Ops.lean ====
section
/-!
DEFINITION. The shared operations: reading and writing the byte buffers' memory, ending a command with a
result code, and the element reads that several commands make.
-/

namespace Sys2Proof.Machine

/-- The answer of a command or of a step. -/
abbrev Result := Host.Outcome State Fault Refusal

/-! ### Memory -/

/-- The byte at an offset. -/
def Memory.read : Memory → Nat → Byte
  | [], _ => Memory.blank
  | (k, v) :: rest, a => if k = a then v else Memory.read rest a

/-- Put a byte at an offset, keeping the canonical form: `Memory.blank` removes the pair. -/
def Memory.write : Memory → Nat → Byte → Memory
  | [], a, v => if v = Memory.blank then [] else [(a, v)]
  | (k, x) :: rest, a, v =>
    if a < k then (if v = Memory.blank then (k, x) :: rest else (a, v) :: (k, x) :: rest)
    else if k = a then (if v = Memory.blank then rest else (a, v) :: rest)
    else (k, x) :: Memory.write rest a v

/-- The `n` bytes from an offset up. -/
def Memory.readBytes (m : Memory) (a n : Nat) : List Byte := (List.range n).map (fun j => m.read (a + j))

/-- Put a string of bytes at an offset and the ones after it. -/
def Memory.writeBytes : Memory → Nat → List Byte → Memory
  | m, _, [] => m
  | m, a, b :: bs => Memory.writeBytes (m.write a b) (a + 1) bs

/-! ### Buffers -/

/-- The offset of a buffer's first byte (rule R45). -/
def Buf.base : Buf → Nat
  | .txpay => 0x200
  | .fbuf  => 0x300
  | .rxpay => 0x400

/-- `BUF[0..n)`. -/
def State.bufBytes (s : State) (b : Buf) (n : Nat) : List Byte := s.mem.readBytes (Buf.base b) n

/-- `FBUF[0..244)`: the frame image in the frame buffer (rule R14). -/
def State.frame (s : State) : List Byte := s.bufBytes .fbuf 244

/-- `TXPAY[0..TXLEN)`: the payload to encode (rule R13). -/
def State.payload (s : State) : List Byte := s.bufBytes .txpay s.txlen.toNat

/-- `UBUF[0..ULEN)`: the bytes fed and not yet emitted or discarded, oldest first (rule R16). -/
def State.buffered (s : State) : List Byte := s.ubuf.toList.take s.ulen.toNat

/-! ### How a command ends

There is no trap (rule R169): a command that errs writes its code to `ERR`, changes nothing else and ends
(rule R161). Nothing is saved, so there is nothing to return from (rule R170). -/

/-- The number of an error (rule R160). -/
def ErrorCode.code : ErrorCode → Byte
  | .badStartByte   => 1#8
  | .badPayloadSize => 2#8
  | .badCrc         => 3#8
  | .badCommand     => 4#8
  | .badRate        => 5#8
  | .rxPending      => 6#8

/-- The one write of `ERR` that ends every command (rule R19). -/
def State.setErr (s : State) (c : Byte) : State := { s with err := c }

/-- `raise E` (rule R161): `ERR` takes the code of `E` and no other element changes. -/
def State.raise (s : State) (e : ErrorCode) : State := s.setErr (ErrorCode.code e)

/-- `ERR <- 0`: a command's successful completion (rule R161). -/
def State.complete (s : State) : State := s.setErr 0#8

end Sys2Proof.Machine
end

