-- ==== Sys2Proof/Machine/Operands.lean ====
section
/-!
DEFINITION. Every operand form: the address map of the host accesses (rules R24, R45), the halves of a
64-bit register (rule R42), the signed reading of a count (rule R133), the fields of the quaternion word
(rule R114) and the legal rates (rules R131, R132).
-/

namespace Sys2Proof.Machine

/-! ### The address map -/

/-- The offset of a one-word register (rule R24). -/
def Reg32.offset : Reg32 → Nat
  | .cmd     => 0x000
  | .status  => 0x004
  | .err     => 0x008
  | .dropcnt => 0x00C
  | .ulen    => 0x010
  | .txhdr   => 0x014
  | .txlen   => 0x018
  | .dhdr    => 0x01C
  | .dlen    => 0x020
  | .rxhdr   => 0x024
  | .rxlen   => 0x028
  | .rate    => 0x02C
  | .qd c    => 0x040 + 4 * c.val
  | .qflags  => 0x050
  | .xflags  => 0x054
  | .gyr i a => 0x080 + 4 * (3 * i.val + a.val)
  | .xq i c  => 0x100 + 16 * i.val + 4 * c.val

/-- The offset of the low word of a 64-bit register (rule R24). -/
def Reg64.offset : Reg64 → Nat
  | .ts0   => 0x030
  | .q64   => 0x038
  | .xts i => 0x180 + 8 * i.val

/-- The offset of a word slot: the high half of a 64-bit register is one word above the low half (R24). -/
def WordSlot.offset : WordSlot → Nat
  | .reg r => Reg32.offset r
  | .lo r  => Reg64.offset r
  | .hi r  => Reg64.offset r + 4

/-- The region an offset lies in: the table of rule R45. -/
def regionAt (off : Nat) : Region :=
  if off ≤ 0x057 then .words
  else if off ≤ 0x07F then .unmapped
  else if off ≤ 0x0DF then .words
  else if off ≤ 0x0FF then .unmapped
  else if off ≤ 0x1BF then .words
  else if off ≤ 0x1FF then .unmapped
  else if off ≤ 0x2EB then .bytes .txpay
  else if off ≤ 0x2FF then .unmapped
  else if off ≤ 0x3F3 then .bytes .fbuf
  else if off ≤ 0x3FF then .unmapped
  else if off ≤ 0x4EB then .bytes .rxpay
  else .unmapped

/-- The slot that word number `k` (offset `4·k`) of the first word region holds (rule R24). -/
def lowSlot (k : Nat) : WordSlot :=
  match k with
  | 0  => .reg .cmd
  | 1  => .reg .status
  | 2  => .reg .err
  | 3  => .reg .dropcnt
  | 4  => .reg .ulen
  | 5  => .reg .txhdr
  | 6  => .reg .txlen
  | 7  => .reg .dhdr
  | 8  => .reg .dlen
  | 9  => .reg .rxhdr
  | 10 => .reg .rxlen
  | 11 => .reg .rate
  | 12 => .lo .ts0
  | 13 => .hi .ts0
  | 14 => .lo .q64
  | 15 => .hi .q64
  | 16 => .reg (.qd 0)
  | 17 => .reg (.qd 1)
  | 18 => .reg (.qd 2)
  | 19 => .reg (.qd 3)
  | 20 => .reg .qflags
  | _  => .reg .xflags

/-- The slot at an aligned offset of a word region (rule R24). -/
def slotAt (off : Nat) : WordSlot :=
  if off < 0x080 then lowSlot (off / 4)
  else if off < 0x100 then
    let k := (off - 0x080) / 4
    .reg (.gyr (Fin.ofNat 8 (k / 3)) (Fin.ofNat 3 (k % 3)))
  else if off < 0x180 then
    let k := (off - 0x100) / 4
    .reg (.xq (Fin.ofNat 8 (k / 4)) (Fin.ofNat 4 (k % 4)))
  else
    let k := (off - 0x180) / 8
    if off % 8 = 0 then .lo (.xts (Fin.ofNat 8 k)) else .hi (.xts (Fin.ofNat 8 k))

/-- What a word access at an offset selects, or why it is refused (rules R45, R46, R49). -/
def wordAccess (off : Nat) : Except AccessError WordSlot :=
  match regionAt off with
  | .unmapped => .error .unmapped
  | .bytes _  => .error .wrongWidth
  | .words    => if off % 4 = 0 then .ok (slotAt off) else .error .misaligned

/-- What an access of `size` bytes by `MemRead` or `MemWrite` selects, or why it is refused: the only size
is 1 (rules R43, R44, R46). -/
def byteAccess (off size : Nat) : Except AccessError Buf :=
  if size ≠ 1 then .error .badSize
  else match regionAt off with
    | .unmapped => .error .unmapped
    | .words    => .error .wrongWidth
    | .bytes b  => .ok b

/-! ### Halves of a 64-bit register (rule R42) -/

/-- The low half. -/
def loHalf (v : DWord) : Word := v.extractLsb' 0 32

/-- The high half. -/
def hiHalf (v : DWord) : Word := v.extractLsb' 32 32

/-- Change the low half only. -/
def withLo (v : DWord) (w : Word) : DWord := hiHalf v ++ w

/-- Change the high half only. -/
def withHi (v : DWord) (w : Word) : DWord := w ++ loHalf v

/-! ### Gyroscope counts -/

/-- A gyroscope triplet read as three signed counts (rule R133). -/
structure Counts where
  x : Int
  y : Int
  z : Int
  deriving DecidableEq, Repr

/-- `s16`: a 16-bit pattern as a two's-complement integer in −32768..32767. -/
def s16 (v : Half) : Int := v.toInt

/-- The counts of `GYR[i][0..2]`. -/
def countsOf (g : Vector Half 3) : Counts := ⟨s16 g[0], s16 g[1], s16 g[2]⟩

/-- All three counts are zero (the test of rule R137). -/
def Counts.isZero (g : Counts) : Bool := decide (g.x = 0 ∧ g.y = 0 ∧ g.z = 0)

/-- The counts of sample `i`; there are triplets for the samples below 8 only, and no rule asks for more. -/
def State.counts (s : State) (i : Nat) : Counts :=
  if h : i < 8 then countsOf s.gyr[i] else ⟨0, 0, 0⟩

/-! ### The packed quaternion word (rule R114) -/

/-- `r0 = W[19:0]`. -/
def rawField0 (w : DWord) : BitVec 20 := w.extractLsb' 0 20

/-- `r1 = W[39:20]`. -/
def rawField1 (w : DWord) : BitVec 20 := w.extractLsb' 20 20

/-- `r2 = W[59:40]`. -/
def rawField2 (w : DWord) : BitVec 20 := w.extractLsb' 40 20

/-- `axis = W[61:60]`. -/
def axisField (w : DWord) : BitVec 2 := w.extractLsb' 60 2

/-- `rest = W[62]`. -/
def restField (w : DWord) : Bool := w.getLsbD 62

/-- `mag = W[63]`. -/
def magField (w : DWord) : Bool := w.getLsbD 63

/-! ### Rates (rules R131, R132) -/

/-- The legal rate that an 8-bit `RATE` value names, if it names one (rule R131). -/
def SampleRate.ofByte (b : Byte) : Option SampleRate :=
  if b = 1#8 then some .hz1
  else if b = 10#8 then some .hz10
  else if b = 25#8 then some .hz25
  else if b = 50#8 then some .hz50
  else if b = 100#8 then some .hz100
  else if b = 200#8 then some .hz200
  else none

/-- `PERIOD_NS(rate)` (rule R132). -/
def SampleRate.periodNs : SampleRate → Nat
  | .hz200 => 5000000
  | .hz100 => 10000000
  | .hz50  => 20000000
  | .hz25  => 40000000
  | .hz10  => 100000000
  | .hz1   => 1000000000

end Sys2Proof.Machine
end

