-- ==== Sys2Proof/Machine/Flags.lean ====
section
/-!
DEFINITION. The three flag registers as the words the host reads (rule R23). The block has no condition codes
and no arithmetic flags (rule R12); what sets each flag is in the command that writes it.
-/

namespace Sys2Proof.Machine

/-- `STATUS`: `RXVALID` in bit 0, all other bits 0. -/
def State.statusWord (s : State) : Word := 0#31 ++ BitVec.ofBool s.rxvalid

/-- A flag word of rule R23: `rest` in bit 0, `mag` in bit 1, `axis` in bits 3:2, all other bits 0. -/
def flagWord (rest mag : Bool) (axis : BitVec 2) : Word :=
  0#28 ++ axis ++ BitVec.ofBool mag ++ BitVec.ofBool rest

/-- `QFLAGS`. -/
def State.qflagsWord (s : State) : Word := flagWord s.qrest s.qmag s.qaxis

/-- `XFLAGS`. -/
def State.xflagsWord (s : State) : Word := flagWord s.xrest s.xmag s.xaxis

end Sys2Proof.Machine
end

