-- ==== Sys2Proof/Machine/Binary32.lean ====
section
/-!
DEFINITION. `NUM = binary32` (rule R111): the IEEE 754 binary32 format and its correctly rounded operations,
computed with exact integers and one rounding at the end. Sine and cosine are in `Machine/Trig.lean`.
-/

namespace Sys2Proof.Machine

/-- A binary32 value as its 32-bit pattern (rule R24: a `NUM` word is the pattern of the value). -/
abbrev F32 := Word

/-- What a pattern stands for: a finite value is `±m · 2^e`. -/
inductive F32.Kind where
  | nan
  | inf (neg : Bool)
  | fin (neg : Bool) (m : Nat) (e : Int)
  deriving DecidableEq, Repr

/-- The sign bit. -/
def F32.sign (a : F32) : Bool := a.getLsbD 31

/-- The 8-bit exponent field. -/
def F32.expField (a : F32) : Nat := (a.extractLsb' 23 8).toNat

/-- The 23-bit fraction field. -/
def F32.fracField (a : F32) : Nat := (a.extractLsb' 0 23).toNat

/-- Read a pattern: subnormals and zeros with exponent field 0, infinities and NaNs with exponent field 255. -/
def F32.kind (a : F32) : F32.Kind :=
  if F32.expField a = 255 then (if F32.fracField a = 0 then .inf (F32.sign a) else .nan)
  else if F32.expField a = 0 then .fin (F32.sign a) (F32.fracField a) (-149)
  else .fin (F32.sign a) (2 ^ 23 + F32.fracField a) ((F32.expField a : Int) - 150)

/-- A pattern from a sign and the low 31 bits. -/
def F32.pack (neg : Bool) (mag : Nat) : F32 := BitVec.ofNat 32 (mag + if neg then 2 ^ 31 else 0)

/-- A NaN whose sign and payload are the free value of log 2. -/
def F32.someNaN (a b : F32) : F32 := (Config.freeNaN a b &&& 0x803FFFFF#32) ||| 0x7FC00000#32

/-- The low 31 bits of an infinity. -/
abbrev F32.infMag : Nat := 0x7F800000

/-! ### Rounding to nearest, ties to even -/

/-- `⌊log2 (n / d)⌋` for positive `n` and `d`. -/
def floorLog2 (n d : Nat) : Int :=
  let k : Int := (Nat.log2 n : Int) - (Nat.log2 d : Int)
  if n * 2 ^ (-k).toNat < d * 2 ^ k.toNat then k - 1 else k

/-- The exponent of one unit in the last place of a positive value of binary exponent `k`: 23 below it, and
-149 for subnormal values. -/
def ulpExp (k : Int) : Int := max (k - 23) (-149)

/-- `n / d` rounded to the nearest integer, ties to even, for positive `d`. -/
def divNearestEven (n d : Nat) : Nat :=
  let q := n / d
  let r := n % d
  if d < 2 * r ∨ (2 * r = d ∧ q % 2 = 1) then q + 1 else q

/-- The low 31 bits of the binary32 value nearest to `(n / d) · 2^e`, ties to even, overflow to infinity, for
positive `d`. The significand is counted in units in the last place, so that a carry out of it reaches the
exponent field by itself. -/
def roundMag (n d : Nat) (e : Int) : Nat :=
  if n = 0 then 0
  else
    let q := ulpExp (floorLog2 n d + e)
    let m := divNearestEven (n * 2 ^ (e - q).toNat) (d * 2 ^ (q - e).toNat)
    min ((q + 149).toNat * 2 ^ 23 + m) F32.infMag

/-- The largest `r` with `r * r ≤ m`, found bit by bit below `2^bits`, starting from `r`. -/
def isqrtBits : Nat → Nat → Nat → Nat
  | 0, _, r => r
  | k + 1, m, r =>
    if (r + 2 ^ k) * (r + 2 ^ k) ≤ m then isqrtBits k m (r + 2 ^ k) else isqrtBits k m r

/-- The integer square root of a number below `2^88`. -/
def isqrt (m : Nat) : Nat := isqrtBits 44 m 0

/-! ### The operations (rule R111) -/

/-- `i2f`: an integer, rounded once (exact up to `2^24`). -/
def F32.ofInt (n : Int) : F32 := F32.pack (decide (n < 0)) (roundMag n.natAbs 1 0)

/-- The signed significand of a finite value scaled to exponent `e`, for `e` not above its own. -/
def scaledInt (neg : Bool) (m : Nat) (e e' : Int) : Int :=
  (if neg then -1 else 1) * ((m * 2 ^ (e' - e).toNat : Nat) : Int)

/-- The opposite sign. -/
def F32.neg (a : F32) : F32 := a ^^^ 0x80000000#32

/-- `fadd`: the exact sum, rounded once. An exact zero sum is +0 unless both operands are negative zeros. -/
def F32.add (a b : F32) : F32 :=
  match F32.kind a, F32.kind b with
  | .nan, _ => F32.someNaN a b
  | _, .nan => F32.someNaN a b
  | .inf s, .inf t => if s = t then a else F32.someNaN a b
  | .inf _, .fin _ _ _ => a
  | .fin _ _ _, .inf _ => b
  | .fin s m e, .fin t n f =>
    let g := min e f
    let sum := scaledInt s m g e + scaledInt t n g f
    if sum = 0 then F32.pack (s && t) 0
    else F32.pack (decide (sum < 0)) (roundMag sum.natAbs 1 g)

/-- `fsub`: the sum with the opposite. -/
def F32.sub (a b : F32) : F32 := F32.add a (F32.neg b)

/-- `fmul`: the exact product, rounded once. -/
def F32.mul (a b : F32) : F32 :=
  match F32.kind a, F32.kind b with
  | .nan, _ => F32.someNaN a b
  | _, .nan => F32.someNaN a b
  | .inf s, .inf t => F32.pack (s != t) F32.infMag
  | .inf s, .fin t n _ => if n = 0 then F32.someNaN a b else F32.pack (s != t) F32.infMag
  | .fin s m _, .inf t => if m = 0 then F32.someNaN a b else F32.pack (s != t) F32.infMag
  | .fin s m e, .fin t n f => F32.pack (s != t) (roundMag (m * n) 1 (e + f))

/-- `fdiv`: the exact quotient, rounded once. -/
def F32.div (a b : F32) : F32 :=
  match F32.kind a, F32.kind b with
  | .nan, _ => F32.someNaN a b
  | _, .nan => F32.someNaN a b
  | .inf _, .inf _ => F32.someNaN a b
  | .inf s, .fin t _ _ => F32.pack (s != t) F32.infMag
  | .fin s _ _, .inf t => F32.pack (s != t) 0
  | .fin s m e, .fin t n f =>
    if n = 0 then (if m = 0 then F32.someNaN a b else F32.pack (s != t) F32.infMag)
    else F32.pack (s != t) (roundMag m n (e - f))

/-- The low 31 bits of the square root of `m · 2^e`, for positive `m` below `2^24`. The radicand is scaled to an
even exponent and at least 60 bits, so its integer root has more bits than a significand; a root that is not
exact is replaced by the midpoint to the next integer, which rounds as the root does. -/
def sqrtMag (m : Nat) (e : Int) : Nat :=
  let t : Nat := if e % 2 = 0 then 60 else 61
  let r := isqrt (m * 2 ^ t)
  let g : Int := (e - (t : Int)) / 2
  if r * r = m * 2 ^ t then roundMag r 1 g else roundMag (2 * r + 1) 1 (g - 1)

/-- `fsqrt`: the exact root, rounded once; a zero keeps its sign, and a negative value gives a NaN. -/
def F32.sqrt (a : F32) : F32 :=
  match F32.kind a with
  | .nan => F32.someNaN a a
  | .inf s => if s then F32.someNaN a a else a
  | .fin s m e =>
    if m = 0 then a
    else if s then F32.someNaN a a
    else F32.pack false (sqrtMag m e)

/-- `flt0`: the IEEE comparison `a < 0`, false for -0 and for a NaN. -/
def F32.ltZero (a : F32) : Bool :=
  match F32.kind a with
  | .nan => false
  | .inf s => s
  | .fin s m _ => s && decide (m ≠ 0)

/-- `fconst` under `binary32`: the patterns of the table of rule R111 and of rule R132. -/
def F32.const : RealConst → F32
  | .k1   => 0x493504E8#32
  | .k2   => 0x3F3504F3#32
  | .gyrk => 0x3A8BA058#32
  | .one  => 0x3F800000#32
  | .zero => 0x00000000#32
  | .halfPeriod .hz200 => 0x3B23D70A#32
  | .halfPeriod .hz100 => 0x3BA3D70A#32
  | .halfPeriod .hz50  => 0x3C23D70A#32
  | .halfPeriod .hz25  => 0x3CA3D70A#32
  | .halfPeriod .hz10  => 0x3D4CCCCD#32
  | .halfPeriod .hz1   => 0x3F000000#32

end Sys2Proof.Machine
end

