-- ==== Sys2Proof/Machine/Trig.lean ====
section
/-!
DEFINITION. `fsin` and `fcos` under `binary32` (rule R113). The spec does not fix them bit for bit: they are
total, depend on the argument alone, and are accurate to `SINCOS_ULP` for every finite argument of magnitude at
most 64. The result is therefore a free value held inside that bound: the hardware's own value where it is
within the bound of a fixed-point sine or cosine exact to far below one unit in the last place (log 1).
-/

namespace Sys2Proof.Machine

/-- The number of fraction bits of the fixed-point sine and cosine. They hold `a³/6` for every non-zero argument
`a` (at least `2^-450`), so the sine of a tiny argument stays on the argument's near side of it, and in the binade
below where the argument is a power of two (log 1). -/
abbrev trigBits : Nat := 512

/-- The number of terms summed: the first term left out is below `2^-480` for arguments up to 64. -/
abbrev trigTerms : Nat := 200

/-- The value `±m · 2^e` of a finite binary32 number, times `2^512`: an integer, since `e` is at least -149. -/
def trigScale (neg : Bool) (m : Nat) (e : Int) : Int :=
  (if neg then -1 else 1) * ((m * 2 ^ (e + (trigBits : Int)).toNat : Nat) : Int)

/-- `acc ± t ∓ t·x²/((k+1)(k+2)) ± …`: an alternating Taylor sum in fixed point. `x2` is the square of the
argument with 1024 fraction bits, `t` the magnitude of the next term, `k` its exponent, `minus` its sign. -/
def taylorSum : Nat → Nat → Nat → Bool → Nat → Int → Int
  | 0, _, _, _, _, acc => acc
  | terms + 1, x2, k, minus, t, acc =>
    taylorSum terms x2 (k + 2) (!minus) (t * x2 / (2 ^ (2 * trigBits) * ((k + 1) * (k + 2))))
      (if minus then acc - (t : Int) else acc + (t : Int))

/-- The sine of a fixed-point argument, in fixed point. -/
def sinFixed (x : Int) : Int :=
  let s := taylorSum trigTerms (x.natAbs * x.natAbs) 1 false x.natAbs 0
  if x < 0 then -s else s

/-- The cosine of a fixed-point argument, in fixed point. -/
def cosFixed (x : Int) : Int := taylorSum trigTerms (x.natAbs * x.natAbs) 0 false (2 ^ trigBits) 0

/-- The binary32 number nearest to a fixed-point value. -/
def nearestF32 (v : Int) : F32 := F32.pack (decide (v < 0)) (roundMag v.natAbs 1 (-(trigBits : Int)))

/-- The exponent of one unit in the last place of a fixed-point value (rule R113); of zero, that of the
smallest subnormal number. -/
def fixedUlpExp (v : Int) : Int :=
  if v = 0 then -149 else ulpExp (floorLog2 v.natAbs 1 - (trigBits : Int))

/-- `f` is a finite number within `SINCOS_ULP` units in the last place of the fixed-point value `v`. -/
def withinUlp (v : Int) (f : F32) : Bool :=
  match F32.kind f with
  | .fin s m e =>
    decide ((trigScale s m e - v).natAbs ≤ Config.sincosUlp * 2 ^ (fixedUlpExp v + (trigBits : Int)).toNat)
  | .inf _ => false
  | .nan => false

/-- A free value `f`, held within the bound of rule R113 around `v`: where it is not, the nearest number
stands in for it. -/
def heldNear (v : Int) (f : F32) : F32 := if withinUlp v f then f else nearestF32 v

/-- The magnitude of a fixed-point argument is at most 64, where rule R113 states the bound. -/
def trigBounded (x : Int) : Bool := decide (x.natAbs ≤ 64 * 2 ^ trigBits)

/-- `fsin` (rule R113), from the free value. `fsin(+0) = +0`. -/
def F32.sinFrom (free : F32 → F32) (a : F32) : F32 :=
  if a = 0#32 then 0#32
  else match F32.kind a with
    | .fin s m e =>
      if trigBounded (trigScale s m e) then heldNear (sinFixed (trigScale s m e)) (free a) else free a
    | .inf _ => free a
    | .nan => free a

/-- `fcos` (rule R113), from the free value. `fcos(+0) = 1.0`. -/
def F32.cosFrom (free : F32 → F32) (a : F32) : F32 :=
  if a = 0#32 then 0x3F800000#32
  else match F32.kind a with
    | .fin s m e =>
      if trigBounded (trigScale s m e) then heldNear (cosFixed (trigScale s m e)) (free a) else free a
    | .inf _ => free a
    | .nan => free a

/-- `NUM = binary32` with a given sine and cosine (rules R110, R111). -/
def binary32With (sin cos : F32 → F32) : Num F32 where
  fconst := F32.const
  i2f    := F32.ofInt
  fadd   := F32.add
  fsub   := F32.sub
  fmul   := F32.mul
  fdiv   := F32.div
  fsqrt  := F32.sqrt
  fsin   := F32.sinFrom sin
  fcos   := F32.cosFrom cos
  flt0   := F32.ltZero

/-- The value of `NUM` this hardware takes (decision D16). -/
def num : Num F32 := binary32With Config.freeSin Config.freeCos

end Sys2Proof.Machine
end

