-- ==== Sys2Proof/Machine/Quaternion.lean ====
section
/-!
DEFINITION. The quaternion decoder: `dequant` (rule R115), the omitted component (rule R117), `q3_decode`
(rule R118) for any `NUM`, and `QDEC` (rule R119). The order of operations is the spec's (decision D17).
-/

namespace Sys2Proof.Machine

/-- `q[c]`: index 0 is `w`, 1 is `x`, 2 is `y`, 3 is `z` (rule R116). -/
def Quat.get {F : Type} (q : Quat F) (c : Fin 4) : F :=
  match c with
  | 0 => q.w
  | 1 => q.x
  | 2 => q.y
  | 3 => q.z

/-- What `q3_decode` returns (rule R118). -/
structure Decoded (F : Type) where
  q    : Quat F
  rest : Bool
  mag  : Bool
  axis : BitVec 2
  deriving DecidableEq, Repr

/-- `dequant(r) = fsub(fdiv(i2f(r), K1), K2)` of an unsigned raw field (rule R115). -/
def dequant {F : Type} (num : Num F) (r : BitVec 20) : F :=
  num.fsub (num.fdiv (num.i2f (r.toNat : Int)) (num.fconst .k1)) (num.fconst .k2)

/-- The omitted component from the three stored ones, clamped to 0 (rule R117). -/
def omitted {F : Type} (num : Num F) (c0 c1 c2 : F) : F :=
  let s := num.fadd (num.fadd (num.fmul c0 c0) (num.fmul c1 c1)) (num.fmul c2 c2)
  let d := num.fsub (num.fconst .one) s
  if num.flt0 d then num.fconst .zero else num.fsqrt d

/-- Component `i` of a decoded quaternion: `q[axis]` is the omitted one, `q[axis+3]`, `q[axis+2]`, `q[axis+1]`
modulo 4 are the stored ones in field order (rules R116, R118). -/
def placeComponent {F : Type} (axis : BitVec 2) (m c0 c1 c2 : F) (i : BitVec 2) : F :=
  if i = axis then m
  else if i = axis + 3#2 then c0
  else if i = axis + 2#2 then c1
  else c2

/-- `q3_decode(W)` (rule R118): total, every word decodes. -/
def q3Decode {F : Type} (num : Num F) (w : DWord) : Decoded F :=
  let c0 := dequant num (rawField0 w)
  let c1 := dequant num (rawField1 w)
  let c2 := dequant num (rawField2 w)
  let axis := axisField w
  let comp := placeComponent axis (omitted num c0 c1 c2) c0 c1 c2
  { q := ⟨comp 0#2, comp 1#2, comp 2#2, comp 3#2⟩
    rest := restField w
    mag := magField w
    axis := axis }

/-- The state after `QDEC` (rule R119). -/
def qdec (s : State) : State :=
  let d := q3Decode num s.q64
  { s with qd := d.q, qrest := d.rest, qmag := d.mag, qaxis := d.axis }.complete

/-- `QDEC` (rule R119): always succeeds (decision D33). -/
def execQdec (s : State) : Result := .next (qdec s)

end Sys2Proof.Machine
end

