-- ==== Sys2Proof/Machine/Extrapolation.lean ====
section
/-!
DEFINITION. The extrapolation engine: the parts of the computation for any `NUM` (rules R133 to R137), the
timestamps (rule R139), and `XTRAP` (rule R130). The order of operations is the spec's (decisions D23, D24).
-/

namespace Sys2Proof.Machine

/-- `rate_of`: three counts to rad/s (rule R133). -/
def rateOf {F : Type} (num : Num F) (g : Counts) : F × F × F :=
  (num.fmul (num.i2f g.x) (num.fconst .gyrk),
   num.fmul (num.i2f g.y) (num.fconst .gyrk),
   num.fmul (num.i2f g.z) (num.fconst .gyrk))

/-- `delta_q`: the incremental rotation of a rate vector over the half period `h` (rule R134). -/
def deltaQ {F : Type} (num : Num F) (wx wy wz h : F) : Quat F :=
  let n := num.fsqrt (num.fadd (num.fadd (num.fmul wx wx) (num.fmul wy wy)) (num.fmul wz wz))
  let th := num.fmul n h
  let k := num.fdiv (num.fsin th) n
  ⟨num.fcos th, num.fmul k wx, num.fmul k wy, num.fmul k wz⟩

/-- `hamilton(a, b)`, each line left to right as nested (rule R135). -/
def hamilton {F : Type} (num : Num F) (a b : Quat F) : Quat F where
  w := num.fsub (num.fsub (num.fsub (num.fmul a.w b.w) (num.fmul a.x b.x)) (num.fmul a.y b.y)) (num.fmul a.z b.z)
  x := num.fsub (num.fadd (num.fadd (num.fmul a.w b.x) (num.fmul a.x b.w)) (num.fmul a.y b.z)) (num.fmul a.z b.y)
  y := num.fadd (num.fadd (num.fsub (num.fmul a.w b.y) (num.fmul a.x b.z)) (num.fmul a.y b.w)) (num.fmul a.z b.x)
  z := num.fadd (num.fsub (num.fadd (num.fmul a.w b.z) (num.fmul a.x b.y)) (num.fmul a.y b.x)) (num.fmul a.z b.w)

/-- `normalize(p)`: each component divided by the Euclidean norm (rule R136). -/
def normalize {F : Type} (num : Num F) (p : Quat F) : Quat F :=
  let s := num.fadd (num.fadd (num.fadd (num.fmul p.w p.w) (num.fmul p.x p.x)) (num.fmul p.y p.y)) (num.fmul p.z p.z)
  let m := num.fsqrt s
  ⟨num.fdiv p.w m, num.fdiv p.x m, num.fdiv p.y m, num.fdiv p.z m⟩

/-- The sample after `prev`: the recurrence, with the zero-rate bypass (rule R137). -/
def nextSample {F : Type} (num : Num F) (h : F) (prev : Quat F) (g : Counts) : Quat F :=
  if g.isZero then prev
  else
    let w := rateOf num g
    normalize num (hamilton num prev (deltaQ num w.1 w.2.1 w.2.2 h))

/-- `out[i]`: the anchor at 0, then one step of the recurrence for each sample, with that sample's counts.
The counts of sample 0 enter nothing (rules R130, R137, R140). -/
def sample {F : Type} (num : Num F) (h : F) (q0 : Quat F) (g : Nat → Counts) : Nat → Quat F
  | 0 => q0
  | i + 1 => nextSample num h (sample num h q0 g i) (g (i + 1))

/-- `XTS[i] = (TS0 + i · PERIOD_NS(RATE)) mod 2^64` (rule R139). -/
def timestamp (ts0 : DWord) (r : SampleRate) (i : Nat) : DWord :=
  ts0 + BitVec.ofNat 64 (i * SampleRate.periodNs r)

/-- The state after an `XTRAP` at a legal rate (rule R130). -/
def extrapolate (r : SampleRate) (s : State) : State :=
  let d := q3Decode num s.q64
  let out := sample num (num.fconst (.halfPeriod r)) d.q s.counts
  { s with
    xq := Vector.ofFn fun i : Fin 8 => out i.val
    xts := Vector.ofFn fun i : Fin 8 => timestamp s.ts0 r i.val
    xrest := d.rest
    xmag := d.mag
    xaxis := d.axis }.complete

/-- The state after `XTRAP` (rule R130): the rate is tested first. -/
def xtrap (s : State) : State :=
  match SampleRate.ofByte s.rate with
  | none   => s.raise .badRate
  | some r => extrapolate r s

/-- `XTRAP` (rule R130). -/
def execXtrap (s : State) : Result := .next (xtrap s)

end Sys2Proof.Machine
end

