-- ==== Sys2Proof/Machine/Crc.lean ====
section
/-!
DEFINITION. The CRC-32 of rule R82, the frame check of rule R83 and the frame image of rule R86.
-/

namespace Sys2Proof.Machine

/-- One bit of the CRC: `if c[0] = 1 then (c >> 1) ^ 0xEDB88320 else (c >> 1)` (rule R82). -/
def crcBit (c : Word) : Word := if c.getLsbD 0 then (c >>> 1) ^^^ 0xEDB88320#32 else c >>> 1

/-- `n` bits of the CRC. -/
def crcBits : Nat → Word → Word
  | 0, c => c
  | n + 1, c => crcBits n (crcBit c)

/-- One byte of the CRC: exclusive-or it in, then eight bits (rule R82). -/
def crcByte (c : Word) (m : Byte) : Word := crcBits 8 (c ^^^ m.setWidth 32)

/-- `crc32(M)` (rule R82). -/
def crc32 (m : List Byte) : Word := m.foldl crcByte 0xFFFFFFFF#32 ^^^ 0xFFFFFFFF#32

/-- `F[5]` as a number: the payload size of a frame image (rule R80). -/
def frameSize (f : List Byte) : Nat := (byteAt f 5).toNat

/-- The bytes the CRC of a frame covers: `F[6 .. 8+payloadSize)` (rule R81). -/
def crcRange (f : List Byte) : List Byte := slice f 6 (8 + frameSize f)

/-- The CRC field of a frame, `from_le32(F[1..5))` (rule R80). -/
def crcField (f : List Byte) : Word := fromLe32 (slice f 1 5)

/-- The header field of a frame, `from_le16(F[6..8))` (rule R80). -/
def headerField (f : List Byte) : Half := fromLe16 (slice f 6 8)

/-- `frame_check(F)`: start byte, then payload size, then CRC, the first failure deciding (rule R83). -/
def frameCheck (f : List Byte) : FrameVerdict :=
  if byteAt f 0 ≠ Config.startByte then .badStartByte
  else if frameSize f > Config.payloadMax then .badPayloadSize
  else if crc32 (crcRange f) ≠ crcField f then .badCrc
  else .ok

/-- The 244-byte image that `FENC` builds from a header, a size and the payload of that size: start byte, CRC,
size, header, payload, zero padding (rules R80, R81, R86). -/
def frameImage (hdr : Half) (size : Byte) (payload : List Byte) : List Byte :=
  [Config.startByte] ++ le32 (crc32 (le16 hdr ++ payload)) ++ [size] ++ le16 hdr ++ payload
    ++ List.replicate (Config.payloadMax - payload.length) 0x00#8

end Sys2Proof.Machine
end

