-- ==== Sys2Proof/Machine/Framer.lean ====
section
/-!
DEFINITION. The framer's commands: `FENC` (rule R86), `FDEC` (rule R90), `FEED` (rules R93 to R98) and
`RXACK` (rule R99). Every meaning is a next state: an error is a result code (rule R161).
-/

namespace Sys2Proof.Machine

/-! ### FENC -/

/-- The state after `FENC` (rule R86). The size test stands before the first write. -/
def fenc (s : State) : State :=
  if s.txlen.toNat > Config.payloadMax then s.raise .badPayloadSize
  else { s with mem := s.mem.writeBytes (Buf.base .fbuf) (frameImage s.txhdr s.txlen s.payload) }.complete

/-- `FENC` (rule R86). -/
def execFenc (s : State) : Result := .next (fenc s)

/-! ### FDEC -/

/-- The state after `FDEC` (rule R90). The payload slice is not copied: it stays in `FBUF[8..8+DLEN)`. -/
def fdec (s : State) : State :=
  match frameCheck s.frame with
  | .badStartByte   => s.raise .badStartByte
  | .badPayloadSize => s.raise .badPayloadSize
  | .badCrc         => s.raise .badCrc
  | .ok             => { s with dhdr := headerField s.frame, dlen := byteAt s.frame 5 }.complete

/-- `FDEC` (rule R90). -/
def execFdec (s : State) : Result := .next (fdec s)

/-! ### FEED and RXACK -/

/-- Step 1 of `FEED`: `UBUF[ULEN] <- b`, `ULEN <- ULEN + 1` (rule R95). `ULEN` is at most 243 here (rule
R98); in a state no run reaches, where `ULEN` is no index of `UBUF`, no byte of it changes (log 4). -/
def appendByte (b : Byte) (s : State) : State :=
  { s with ubuf := s.ubuf.setIfInBounds s.ulen.toNat b, ulen := s.ulen + 1#9 }

/-- `UBUF[j] <- UBUF[j+1]` for `j` from 0 to `n - 2`; the other bytes stay (rule R93). -/
def shiftDown (u : Vector Byte 244) (n : Nat) : Vector Byte 244 :=
  Vector.ofFn fun j : Fin 244 => if j.val + 1 < n then u.toList.getD (j.val + 1) 0#8 else u[j]

/-- `discard_one` (rule R93): drop the oldest byte and count it, modulo 2^32. -/
def discardOne (s : State) : State :=
  { s with ubuf := shiftDown s.ubuf s.ulen.toNat, ulen := s.ulen - 1#9, dropcnt := s.dropcnt + 1#32 }

/-- `emit` (rule R97): the whole payload slot goes to `RXPAY`, padding included, and the buffer is empty. -/
def emitFrame (s : State) : State :=
  { s with
    rxhdr := headerField s.ubuf.toList
    rxlen := byteAt s.ubuf.toList 5
    mem := s.mem.writeBytes (Buf.base .rxpay) (slice s.ubuf.toList 8 244)
    rxvalid := true
    ulen := 0#9 }

/-- Step 2 of `FEED`, the loop of rule R95, with a bound on its passes. Each pass that goes on takes one off
`ULEN`, which has 9 bits, so 512 passes are more than the loop can make; rule R96 says it makes at most
one. -/
def unpackLoop : Nat → State → State
  | 0, s => s
  | passes + 1, s =>
    if s.ulen.toNat < Config.ubufCap then s
    else match frameCheck s.ubuf.toList with
      | .ok => emitFrame s
      | .badStartByte | .badPayloadSize | .badCrc => unpackLoop passes (discardOne s)

/-- The state after `FEED b` (rule R95). A failed frame check inside is no error of the command (R167). -/
def feed (b : Byte) (s : State) : State :=
  if s.rxvalid then s.raise .rxPending
  else (unpackLoop 512 (appendByte b s)).complete

/-- `FEED b` (rule R95). -/
def execFeed (b : Byte) (s : State) : Result := .next (feed b s)

/-- The state after `RXACK` (rule R99). -/
def rxack (s : State) : State := { s with rxvalid := false }.complete

/-- `RXACK` (rule R99). -/
def execRxack (s : State) : Result := .next (rxack s)

end Sys2Proof.Machine
end

