-- ==== Sys2Proof/Machine/System.lean ====
section
/-!
DEFINITION. The system command `RESET` (rule R150) and the reset both resets share (rule R180).
-/

namespace Sys2Proof.Machine

/-- Every element of rule R24 takes its reset value of rule R25. The host's side, which is no element of the
block, stays. -/
def resetElements (s : State) : State :=
  { State.reset with pending := s.pending, returned := s.returned }

/-- The state after `RESET` (rule R150). -/
def resetCommand (s : State) : State := (resetElements s).complete

/-- `RESET` (rule R150). It is accepted in every state. -/
def execReset (s : State) : Result := .next (resetCommand s)

end Sys2Proof.Machine
end

