-- ==== Sys2Proof/Machine/Dispatch.lean ====
section
/-!
DEFINITION. One arm per command: which meaning each has.
-/

namespace Sys2Proof.Machine

def exec (i : Instr) (s : State) : Host.Outcome State Fault Refusal :=
  match i with
  | .reset => Sys2Proof.Machine.execReset s
  | .fenc => Sys2Proof.Machine.execFenc s
  | .fdec => Sys2Proof.Machine.execFdec s
  | .feed b => Sys2Proof.Machine.execFeed b s
  | .rxack => Sys2Proof.Machine.execRxack s
  | .qdec => Sys2Proof.Machine.execQdec s
  | .xtrap => Sys2Proof.Machine.execXtrap s

end Sys2Proof.Machine
end

