-- ==== Sys2Proof/Machine/HostPort.lean ====
section
/-!
DEFINITION. The host port: the four access primitives (rules R41 to R44), refused accesses (rule R46), and the
write of `CMD` that runs one command (rules R47, R60).
-/

namespace Sys2Proof.Machine

/-! ### What a host read returns -/

/-- The word a readable register reads as: its value, zero-extended (rules R23, R41). `CMD` cannot be read. -/
def readReg (r : Reg32) (s : State) : Except AccessError Word :=
  match r with
  | .cmd     => .error .writeOnly
  | .status  => .ok s.statusWord
  | .err     => .ok (s.err.setWidth 32)
  | .dropcnt => .ok s.dropcnt
  | .ulen    => .ok (s.ulen.setWidth 32)
  | .txhdr   => .ok (s.txhdr.setWidth 32)
  | .txlen   => .ok (s.txlen.setWidth 32)
  | .dhdr    => .ok (s.dhdr.setWidth 32)
  | .dlen    => .ok (s.dlen.setWidth 32)
  | .rxhdr   => .ok (s.rxhdr.setWidth 32)
  | .rxlen   => .ok (s.rxlen.setWidth 32)
  | .rate    => .ok (s.rate.setWidth 32)
  | .qd c    => .ok (Quat.get s.qd c)
  | .qflags  => .ok s.qflagsWord
  | .xflags  => .ok s.xflagsWord
  | .gyr i a => .ok (s.gyr[i][a].setWidth 32)
  | .xq i c  => .ok (Quat.get s.xq[i] c)

/-- The value of a 64-bit register. -/
def readReg64 (r : Reg64) (s : State) : DWord :=
  match r with
  | .ts0   => s.ts0
  | .q64   => s.q64
  | .xts i => s.xts[i]

/-- What a read of a word slot returns (rule R41). -/
def readSlot (w : WordSlot) (s : State) : Except AccessError Word :=
  match w with
  | .reg r => readReg r s
  | .lo r  => .ok (loHalf (readReg64 r s))
  | .hi r  => .ok (hiHalf (readReg64 r s))

/-! ### What a host write changes -/

/-- A write of a one-word register other than `CMD`: a register of width `n` takes the low `n` bits, without
any check of the value (rule R42). The others are read-only (rule R24). -/
def writeReg (r : Reg32) (v : Word) (s : State) : Except AccessError State :=
  match r with
  | .txhdr   => .ok { s with txhdr := v.setWidth 16 }
  | .txlen   => .ok { s with txlen := v.setWidth 8 }
  | .rate    => .ok { s with rate := v.setWidth 8 }
  | .gyr i a => .ok { s with gyr := s.gyr.set i (s.gyr[i].set a (v.setWidth 16)) }
  | .cmd | .status | .err | .dropcnt | .ulen | .dhdr | .dlen | .rxhdr | .rxlen => .error .readOnly
  | .qd _ => .error .readOnly
  | .qflags | .xflags => .error .readOnly
  | .xq _ _ => .error .readOnly

/-- A write of a word slot other than `CMD`; a write to one half of a 64-bit register changes that half only
(rule R42). -/
def writeSlot (w : WordSlot) (v : Word) (s : State) : Except AccessError State :=
  match w with
  | .reg r  => writeReg r v s
  | .lo .ts0 => .ok { s with ts0 := withLo s.ts0 v }
  | .hi .ts0 => .ok { s with ts0 := withHi s.ts0 v }
  | .lo .q64 => .ok { s with q64 := withLo s.q64 v }
  | .hi .q64 => .ok { s with q64 := withHi s.q64 v }
  | .lo (.xts _) => .error .readOnly
  | .hi (.xts _) => .error .readOnly

/-- A write of one byte of a buffer; `RXPAY` is read-only (rules R24, R44). -/
def writeBuf (b : Buf) (off : Nat) (v : Byte) (s : State) : Except AccessError State :=
  match b with
  | .txpay => .ok { s with mem := s.mem.write off v }
  | .fbuf  => .ok { s with mem := s.mem.write off v }
  | .rxpay => .error .readOnly

/-! ### The accesses -/

/-- `Cmd(w)`: run the one command that `w` selects; a word that selects none writes `ERR <- 4` and changes
nothing else (rules R47, R60, R164). -/
def runCommand (w : Word) (s : State) : Result :=
  match decodeWord w with
  | .ok i    => exec i s
  | .error _ => .next (s.raise .badCommand)

/-- A read that answers, or is refused: it changes no element of the block (rules R41, R43, R46). -/
def answerRead (d : Except AccessError ReadData) (s : State) : Result :=
  match d with
  | .ok v    => .next { s with returned := some v }
  | .error e => .refused (.refusedAccess e)

/-- A write that is performed, or is refused (rules R42, R44, R46). -/
def answerWrite (d : Except AccessError State) : Result :=
  match d with
  | .ok s    => .next s
  | .error e => .refused (.refusedAccess e)

/-- `RegRead(off)` (rule R41). -/
def regRead (off : Nat) (s : State) : Result :=
  answerRead (do let w ← wordAccess off; let v ← readSlot w s; pure (.word v)) s

/-- `RegWrite(off, w)` (rule R42); at the offset of `CMD` it runs a command (rule R47). -/
def regWrite (off : Nat) (w : Word) (s : State) : Result :=
  match wordAccess off with
  | .error e        => .refused (.refusedAccess e)
  | .ok (.reg .cmd) => runCommand w s
  | .ok slot        => answerWrite (writeSlot slot w s)

/-- `MemRead(off, size)` (rule R43). -/
def memRead (off size : Nat) (s : State) : Result :=
  answerRead (do let _ ← byteAccess off size; pure (.byte (s.mem.read off))) s

/-- `MemWrite(off, size, b)` (rule R44). -/
def memWrite (off size : Nat) (v : Byte) (s : State) : Result :=
  answerWrite (do let b ← byteAccess off size; writeBuf b off v s)

/-- One host action, to completion (rule R40). -/
def hostAction (a : HostAction) (s : State) : Result :=
  match a with
  | .regRead off         => regRead off s
  | .regWrite off w      => regWrite off w s
  | .memRead off size    => memRead off size s
  | .memWrite off size b => memWrite off size b s

/-- One event at the block's boundary: a host action, or the power-on reset (rule R180). -/
def handle (e : Event) (s : State) : Result :=
  match e with
  | .host a       => hostAction a s
  | .powerOnReset => .next (resetElements s)

end Sys2Proof.Machine
end

