-- ==== Sys2Proof/Machine/Step.lean ====
section
/-!
DEFINITION. One step: the block performs the next event, to completion (rules R40, R47). With no event it is
idle: it never acts on its own, and between host accesses the state is constant (rules R28, R40, R190).
-/

namespace Sys2Proof.Machine

/-- The state in which an event runs: it has left the queue, and no read data stands from before. -/
def State.taking (s : State) (rest : List Event) : State := { s with pending := rest, returned := none }

/-- One step of the block. -/
def step (s : State) : Host.Outcome State Fault Refusal :=
  match s.pending with
  | []        => .next s
  | e :: rest => handle e (s.taking rest)

/-- `s` with the write of a command word to `CMD` as the host's next action (rule R47): the block has no
program counter and fetches nothing, and this is how it comes to run a command (rule R11, log 5). -/
def State.withFetchWord (s : State) (nbits w : Nat) : State :=
  { s with pending := .host (.regWrite 0x000 (BitVec.ofNat 32 (w % 2 ^ nbits))) :: s.pending }

end Sys2Proof.Machine
end

