-- ==== Sys2Proof/Machine/Assembler.lean ====
section
/-!
DEFINITION. The assembler notation of rules R65 to R67: what each statement expands to, as host actions.
-/

namespace Sys2Proof.Machine

/-- `Cmd(w) = RegWrite(0x000, w)` (rule R47). -/
def cmdAction (w : Word) : HostAction := .regWrite (Reg32.offset .cmd) w

/-- The action of a command statement (rule R65). -/
def commandAction (i : Instr) : HostAction := cmdAction (encodeWord i)

/-- `MemWrite` of consecutive bytes from an offset up (the expansion of `WRS`, rule R67). -/
def writeActions (off : Nat) (bs : List Nat) : List HostAction :=
  bs.zipIdx.map fun p => .memWrite (off + p.2) 1 (BitVec.ofNat 8 p.1)

/-- `WR GYR[i][a], g[15:0]`, a negative count as its 16-bit two's complement (rule R67). -/
def countAction (i : Fin 8) (a : Fin 3) (g : Int) : HostAction :=
  .regWrite (Reg32.offset (.gyr i a)) ((BitVec.ofInt 16 g).setWidth 32)

/-- What a well-formed statement expands to (rules R65 to R67); the assembler rejects an ill-formed one. -/
def Statement.expand (st : Statement) : Option (List HostAction) :=
  if st.wellFormed then
    match st with
    | .command i   => some [commandAction i]
    | .feed b      => some [commandAction (.feed (BitVec.ofNat 8 b))]
    | .cmdw w      => some [cmdAction (BitVec.ofNat 32 w)]
    | .wr r v      => some [.regWrite (Reg32.offset r) (BitVec.ofNat 32 v)]
    | .wr64 r v    => some [.regWrite (Reg64.offset r) (loHalf (BitVec.ofNat 64 v)),
                            .regWrite (Reg64.offset r + 4) (hiHalf (BitVec.ofNat 64 v))]
    | .wrb b j v   => some [.memWrite (Buf.base b + j) 1 (BitVec.ofNat 8 v)]
    | .rd r        => some [.regRead (Reg32.offset r)]
    | .rd64 r      => some [.regRead (Reg64.offset r), .regRead (Reg64.offset r + 4)]
    | .rdb b j     => some [.memRead (Buf.base b + j) 1]
    | .feeds bs    => some (bs.map fun b => commandAction (.feed (BitVec.ofNat 8 b)))
    | .wrs b j bs  => some (writeActions (Buf.base b + j) bs)
    | .wrg i x y z => some [countAction (Fin.ofNat 8 i) 0 x, countAction (Fin.ofNat 8 i) 1 y,
                            countAction (Fin.ofNat 8 i) 2 z]
    | .ldframe bs  => some (writeActions (Buf.base .fbuf) bs)
  else none

/-- A program: its statements' host actions in order, if every statement is well formed. -/
def assemble : List Statement → Option (List HostAction)
  | [] => some []
  | st :: rest =>
    match Statement.expand st, assemble rest with
    | some a, some b => some (a ++ b)
    | _, _ => none

/-- The block with a program's host actions still to come. -/
def State.withProgram (s : State) (acts : List HostAction) : State :=
  { s with pending := s.pending ++ acts.map .host }

end Sys2Proof.Machine
end

