-- ==== Sys2Proof/Machine/Reference.lean ====
section
/-!
DEFINITION. The reference `NUM = real` (rule R112), the real value of a binary32 pattern (rule R110, `val`),
what "correctly rounded" and "unit in the last place" mean (rules R111, R113), and the informative reference
encoder (rule R121). Nothing here runs in the block; statements about accuracy are made with it.
-/

namespace Sys2Proof.Machine

/-! ### `NUM = real` -/

/-- The rate in hertz (rule R131). -/
def SampleRate.hertz : SampleRate → Nat
  | .hz1 => 1
  | .hz10 => 10
  | .hz25 => 25
  | .hz50 => 50
  | .hz100 => 100
  | .hz200 => 200

/-- The real constants: `K1 = 0xFFFFF/√2`, `K2 = 1/√2`, `GYRK = 2000·π/180/32768`, `HDT = 1/(2·rate)`
(`00_scope.md` section 4, rule R132). -/
noncomputable def RealConst.value : RealConst → ℝ
  | .k1   => 1048575 / Real.sqrt 2
  | .k2   => 1 / Real.sqrt 2
  | .gyrk => 2000 * Real.pi / 180 / 32768
  | .zero => 0
  | .one  => 1
  | .halfPeriod r => 1 / (2 * (SampleRate.hertz r : ℝ))

/-- `NUM = real` (rule R112): every function is the exact real function. The root of a negative number and the
quotient by zero, which rule R110 wants total and rule R112 gives no value, are Lean's 0: the model's choice (log
13), met by no rule. -/
noncomputable def realNum : Num ℝ where
  fconst := RealConst.value
  i2f n  := (n : ℝ)
  fadd a b := a + b
  fsub a b := a - b
  fmul a b := a * b
  fdiv a b := a / b
  fsqrt  := Real.sqrt
  fsin   := Real.sin
  fcos   := Real.cos
  flt0 a := decide (a < 0)

/-- The sum of the squares of the components: the square of the norm. -/
def Quat.normSq (q : Quat ℝ) : ℝ := q.w ^ 2 + q.x ^ 2 + q.y ^ 2 + q.z ^ 2

/-- The sum of the squares of the three stored components of a word, under `NUM = real` (the `s` of R117). -/
noncomputable def storedSq (w : DWord) : ℝ :=
  dequant realNum (rawField0 w) ^ 2 + dequant realNum (rawField1 w) ^ 2 + dequant realNum (rawField2 w) ^ 2

/-! ### The real value of a binary32 pattern -/

/-- The pattern is a finite number. -/
def F32.isFinite (a : F32) : Bool :=
  match F32.kind a with
  | .fin _ _ _ => true
  | .inf _ => false
  | .nan => false

/-- `val` (rule R110): `±m · 2^e` for a finite pattern. An infinity and a NaN are no real numbers, and the rule
wants a value all the same: `±2^128`, the next power of two above the finite numbers, and 0, so that `flt0` is true
exactly where `val` is negative (DESIGN CHOICE, log 13). Statements about rounding say that the pattern is finite. -/
noncomputable def F32.toReal (a : F32) : ℝ :=
  match F32.kind a with
  | .fin s m e => (if s then -1 else 1) * (m : ℝ) * (2 : ℝ) ^ e
  | .inf s => (if s then -1 else 1) * (2 : ℝ) ^ 128
  | .nan => 0

/-- `a` is the real number `x` rounded to nearest, ties to even (rule R111): from `2^128 - 2^103` on in
magnitude the infinity of that sign; below it a finite number that no other finite number is nearer than, and
where another is as near, the one whose fraction is even. -/
def F32.NearestEven (x : ℝ) (a : F32) : Prop :=
  (2 ^ 128 - 2 ^ 103 ≤ x → a = F32.pack false F32.infMag) ∧
  (x ≤ -(2 ^ 128 - 2 ^ 103) → a = F32.pack true F32.infMag) ∧
  (|x| < 2 ^ 128 - 2 ^ 103 → F32.isFinite a = true ∧
    ∀ b : F32, F32.isFinite b = true →
      |F32.toReal a - x| ≤ |F32.toReal b - x| ∧
      (|F32.toReal a - x| = |F32.toReal b - x| → F32.toReal a ≠ F32.toReal b → F32.fracField a % 2 = 0))

/-- The natural number nearest to a non-negative real, ties to even. -/
noncomputable def halfEven (x : ℝ) : Nat :=
  if 1 / 2 < x - ⌊x⌋₊ ∨ (x - ⌊x⌋₊ = 1 / 2 ∧ ⌊x⌋₊ % 2 = 1) then ⌊x⌋₊ + 1 else ⌊x⌋₊

/-- `fconst` under `binary32` on all reals (rule R111): the real rounded to nearest, ties to even. -/
noncomputable def F32.ofReal (r : ℝ) : F32 :=
  if r = 0 then 0#32
  else
    let q := ulpExp (Int.log 2 |r|)
    F32.pack (decide (r < 0)) (min ((q + 149).toNat * 2 ^ 23 + halfEven (|r| / 2 ^ q)) F32.infMag)

/-! ### The whole record of rule R110 -/

/-- The record `NUM` of rule R110, whole: what a command computes with, the map `val` to the reals, and `fconst` on
all reals. -/
structure WholeNum (F : Type) extends Num F where
  val      : F → ℝ
  fconstOf : ℝ → F

/-- `NUM = binary32`, whole (rule R111). -/
noncomputable def wholeBinary32 : WholeNum F32 where
  toNum    := num
  val      := F32.toReal
  fconstOf := F32.ofReal

/-- `NUM = real`, whole (rule R112): `val` is the identity and `fconst` the inclusion. -/
noncomputable def wholeReal : WholeNum ℝ where
  toNum      := realNum
  val x      := x
  fconstOf r := r

/-- What rule R110 asks of the record beyond its types: the named constants are `fconst` of their real values, and
`flt0` is true exactly when `val` is negative. -/
structure WholeNum.Sound {F : Type} (N : WholeNum F) : Prop where
  constants : ∀ c : RealConst, N.fconst c = N.fconstOf (RealConst.value c)
  negative  : ∀ a : F, N.flt0 a = true ↔ N.val a < 0

/-! ### The reference encoder (rule R121) -/

/-- The opposite quaternion: the same rotation. -/
def Quat.negated (q : Quat ℝ) : Quat ℝ := ⟨-q.w, -q.x, -q.y, -q.z⟩

/-- The least index whose component has the largest magnitude. -/
noncomputable def largestIndex (q : Quat ℝ) : Fin 4 :=
  let big := max (max |q.w| |q.x|) (max |q.y| |q.z|)
  if |q.w| = big then 0 else if |q.x| = big then 1 else if |q.y| = big then 2 else 3

/-- The quaternion the encoder keeps: negated where its largest component is negative. -/
noncomputable def keptQuat (q : Quat ℝ) : Quat ℝ :=
  if Quat.get q (largestIndex q) < 0 then Quat.negated q else q

/-- `r = min(0xFFFFF, max(0, floor((c + K2)·K1 + 1/2)))`. -/
noncomputable def quantise (c : ℝ) : BitVec 20 :=
  BitVec.ofInt 20 (min 1048575 (max 0 ⌊(c + RealConst.value .k2) * RealConst.value .k1 + 1 / 2⌋))

/-- `q3_encode_ref(q, rest, mag)` (rule R121): field `k` holds component `(axis + 3 − k) mod 4`. -/
noncomputable def q3EncodeRef (q : Quat ℝ) (rest mag : Bool) : DWord :=
  let axis := largestIndex q
  let k := keptQuat q
  BitVec.ofBool mag ++ BitVec.ofBool rest ++ BitVec.ofNat 2 axis.val
    ++ quantise (Quat.get k (axis + 1)) ++ quantise (Quat.get k (axis + 2)) ++ quantise (Quat.get k (axis + 3))

end Sys2Proof.Machine
end

