-- ==== Sys2Proof/Machine/Stream.lean ====
section
/-!
DEFINITION. What the unpacker guarantees over whole byte streams: the host's feed-and-acknowledge loop (rule
R67 `FEEDA`, rule R58), the source's own algorithm on any chunks (rule R92), which is also the left-to-right
scan of rule R101, and the BLE notification contract of rule R59.
-/

namespace Sys2Proof.Machine

/-- A frame as the unpacker hands it over: header, payload size and the whole 236-byte slot (rule R97). -/
structure Emitted where
  hdr  : Half
  size : Byte
  slot : List Byte
  deriving DecidableEq, Repr

/-- The payload slice of an emitted frame (rule R97). -/
def Emitted.payload (e : Emitted) : List Byte := e.slot.take e.size.toNat

/-- The frame of a 244-byte window that passed `frame_check`. -/
def emittedOf (f : List Byte) : Emitted := ⟨headerField f, byteAt f 5, slice f 8 244⟩

/-- The frame that waits in `RXHDR`, `RXLEN`, `RXPAY` (rule R18). -/
def State.waiting (s : State) : Emitted := ⟨s.rxhdr, s.rxlen, s.bufBytes .rxpay 236⟩

/-! ### The host's loop -/

/-- One turn of `FEEDA`: `FEED b`, and where `STATUS` then shows a frame, take it and issue `RXACK` (R67). -/
def feedAck (b : Byte) (s : State) : State × List Emitted :=
  let t := feed b s
  if t.rxvalid then (rxack t, [t.waiting]) else (t, [])

/-- `FEEDA b0 … bn`: the state at the end and the frames taken, in order (rules R58, R67). -/
def feedAll : List Byte → State → State × List Emitted
  | [], s => (s, [])
  | b :: bs, s =>
    let one := feedAck b s
    let more := feedAll bs one.1
    (more.1, one.2 ++ more.2)

/-! ### The source's algorithm (rule R92) -/

/-- Where the source's unpacker stands: the bytes it holds, the frames it has emitted, the bytes it has
dropped. -/
structure Unpacked where
  rest    : List Byte
  frames  : List Emitted
  dropped : Nat
  deriving DecidableEq, Repr

/-- Step 2 of the source's algorithm, with a bound on its passes: below 244 bytes stop; where the first 244 are
a valid frame emit it and drop them; else drop one byte. Read on a whole stream it is the scan of rule
R101: the decision at each position is a function of the 244 bytes there. -/
def drainBounded : Nat → List Byte → Unpacked
  | 0, buf => ⟨buf, [], 0⟩
  | passes + 1, buf =>
    if buf.length < Config.frameLen then ⟨buf, [], 0⟩
    else if frameCheck (buf.take Config.frameLen) = .ok then
      let d := drainBounded passes (buf.drop Config.frameLen)
      ⟨d.rest, emittedOf (buf.take Config.frameLen) :: d.frames, d.dropped⟩
    else
      let d := drainBounded passes (buf.drop 1)
      ⟨d.rest, d.frames, d.dropped + 1⟩

/-- Step 2 to its end: every pass takes at least one byte, so there are at most as many as bytes. -/
def drain (buf : List Byte) : Unpacked := drainBounded buf.length buf

/-- The source's `feed(bytes)` for each chunk in turn: append, then step 2 (rule R92). -/
def sourceFeed : List (List Byte) → List Byte → Unpacked
  | [], buf => ⟨buf, [], 0⟩
  | chunk :: chunks, buf =>
    let d := drain (buf ++ chunk)
    let more := sourceFeed chunks d.rest
    ⟨more.rest, d.frames ++ more.frames, d.dropped + more.dropped⟩

/-! ### BLE notifications (rule R59) -/

/-- `rt_count = 0xFF − b[0]`, clamped to `[0, 254]`. -/
def rtCount (b0 : Byte) : Nat := min (255 - b0.toNat) 254

/-- The real-time frames and the send-buffer bytes of a notification. A notification too short for its real-time
frames has no meaning here (item U8: refuse). -/
def splitNotification (b : List Byte) : Option (List (List Byte) × List Byte) :=
  match b with
  | [] => none
  | b0 :: _ =>
    if b.length < 1 + 244 * rtCount b0 then none
    else some ((List.range (rtCount b0)).map fun i => slice b (1 + 244 * i) (1 + 244 * (i + 1)),
               b.drop (1 + 244 * rtCount b0))

end Sys2Proof.Machine
end

