-- ==== Sys2Proof/Safety.lean ====
section
/-!
DEFINITION. What counts as a safe state and a safe run: the invariant every step keeps, the accesses the host
may make, and when two states are the same to a host.
-/

namespace Sys2Proof.Machine

/-- The invariant of the block between host actions. -/
structure State.Inv (s : State) : Prop where
  /-- The memory has its canonical form. -/
  memWf : s.mem.wf
  /-- Every byte the memory lists lies in one of the three buffers (R45). -/
  memMapped : ∀ c ∈ s.mem, ∃ b, regionAt c.1 = .bytes b
  /-- `0 ≤ ULEN ≤ 243` (R98). -/
  ulenBound : s.ulen.toNat ≤ 243
  /-- `ERR` holds one of the codes 0 to 6 (R160). -/
  errCode : s.err.toNat ≤ 6
  /-- A decoded frame's payload fits the slot (R83, R90). -/
  dlenBound : s.dlen.toNat ≤ 236
  /-- An emitted frame's payload fits the slot (R83, R97). -/
  rxlenBound : s.rxlen.toNat ≤ 236
  /-- While an emitted frame waits, the unpacker buffer is empty (R94, R97, R99). -/
  waitingEmpty : s.rxvalid = true → s.ulen = 0#9

/-- The accesses the host may make: the complement of rule R46, read off the tables of rules R24 and R45. -/
def HostAction.permitted : HostAction → Bool
  | .regRead off =>
    decide (off % 4 = 0 ∧ off ≠ 0x000 ∧ (off ≤ 0x054 ∨ (0x080 ≤ off ∧ off ≤ 0x0DC) ∨ (0x100 ≤ off ∧ off ≤ 0x1BC)))
  | .regWrite off _ =>
    decide (off % 4 = 0 ∧ (off = 0x000 ∨ off = 0x014 ∨ off = 0x018 ∨ (0x02C ≤ off ∧ off ≤ 0x03C)
      ∨ (0x080 ≤ off ∧ off ≤ 0x0DC)))
  | .memRead off size =>
    decide (size = 1 ∧ ((0x200 ≤ off ∧ off ≤ 0x2EB) ∨ (0x300 ≤ off ∧ off ≤ 0x3F3) ∨ (0x400 ≤ off ∧ off ≤ 0x4EB)))
  | .memWrite off size _ =>
    decide (size = 1 ∧ ((0x200 ≤ off ∧ off ≤ 0x2EB) ∨ (0x300 ≤ off ∧ off ≤ 0x3F3)))

/-- Every element of rule R24 has the same value in both states: they differ at most in the host's side. -/
def State.SameElements (s t : State) : Prop := { s with pending := t.pending, returned := t.returned } = t

/-- No host and no command can tell the two states apart: they differ at most in the bytes of `UBUF` at index
`ULEN` and above, which no rule reads (rules R16, R27, item I9). -/
def State.Indistinguishable (s t : State) : Prop :=
  { s with ubuf := t.ubuf } = t ∧ s.buffered = t.buffered

/-- A run of host actions from a state, as the host issues them; it ends early at a refused access. -/
def runActions : List HostAction → State → Result
  | [], s => .next s
  | a :: rest, s =>
    match hostAction a { s with returned := none } with
    | .next t    => runActions rest t
    | .fault r   => .fault r
    | .refused r => .refused r

end Sys2Proof.Machine
end

