-- ==== Sys2Proof/Certificates/Slice0/Obligations.lean ====
section
/-!
DEFINITION. The statements for the provers. Each docstring says which rule of the spec it formalises. `s.mem.wf`
(the memory has its canonical form) and `s.ulen.toNat ≤ 243` (rule R98) are premises only where a statement
would fail in states no run reaches; `StepKeepsTheInvariant` says that every step keeps them.
-/

open Sys2Proof Sys2Proof.Machine

/-! ### Encoding and decode (rules R60 to R65) -/

/-- Words written out from the table of rule R62, legal and illegal, decode to what they stand for (rules R62 to
R64, section 5 of `95_test_vectors.md`). -/
def Obligations.WrittenWordsDecode : Prop :=
  decodeWord 0x00000001#32 = .ok .reset ∧ decodeWord 0x00000010#32 = .ok .fenc ∧
  decodeWord 0x00000011#32 = .ok .fdec ∧ decodeWord 0x00000012#32 = .ok (.feed 0x00#8) ∧
  decodeWord 0x0000FF12#32 = .ok (.feed 0xFF#8) ∧ decodeWord 0x00000013#32 = .ok .rxack ∧
  decodeWord 0x00000020#32 = .ok .qdec ∧ decodeWord 0x00000030#32 = .ok .xtrap ∧
  decodeWord 0x00000000#32 = .error .unknownOpcode ∧ decodeWord 0x00000101#32 = .error .nonzeroImm ∧
  decodeWord 0x00010012#32 = .error .reservedBits

/-- Rule R62, the opcode map, with the immediate of rule R63: a word that matches a row under the row's mask
decodes to that row's command, and `FEED` takes bits 15:8 as they are. -/
def Obligations.WordsDecodeByTheOpcodeMap : Prop :=
  ∀ w : Word,
    (w &&& 0xFFFFFFFF#32 = 0x00000001#32 → decodeWord w = .ok .reset) ∧
    (w &&& 0xFFFFFFFF#32 = 0x00000010#32 → decodeWord w = .ok .fenc) ∧
    (w &&& 0xFFFFFFFF#32 = 0x00000011#32 → decodeWord w = .ok .fdec) ∧
    (w &&& 0xFFFF00FF#32 = 0x00000012#32 → decodeWord w = .ok (.feed ((w >>> 8).setWidth 8))) ∧
    (w &&& 0xFFFFFFFF#32 = 0x00000013#32 → decodeWord w = .ok .rxack) ∧
    (w &&& 0xFFFFFFFF#32 = 0x00000020#32 → decodeWord w = .ok .qdec) ∧
    (w &&& 0xFFFFFFFF#32 = 0x00000030#32 → decodeWord w = .ok .xtrap)

/-- Decode undoes encode for every command, whatever bytes follow, with every byte of `FEED` (rules R61 to
R63). -/
def Obligations.DecodeUndoesEncode : Prop :=
  ∀ (i : Instr) (rest : List Byte), i.wellFormed = true → decode (encode i ++ rest) = .ok (i, rest)

/-- Each legal word has one meaning and each command one word: encode undoes decode (rules R61 to R63). -/
def Obligations.EncodeUndoesDecode : Prop :=
  ∀ (w : Word) (i : Instr), decodeWord w = .ok i → encodeWord i = w

/-- Rule R64: a word that matches no row ends with `ERR = 4`, all other state unchanged, in every state; and the
words with a bit of `RSV` set, with an unknown operation code, or with a format-`Z` operation code and a
non-zero `IMM8` are such words, the all-zero word among them. -/
def Obligations.IllegalWordsOnlySetBadCommand : Prop :=
  (∀ (w : Word) (s : State),
    w ∉ [0x01#32, 0x10#32, 0x11#32, 0x13#32, 0x20#32, 0x30#32] → w &&& 0xFFFF00FF#32 ≠ 0x12#32 →
      regWrite 0x000 w s = .next { s with err := 4#8 }) ∧
  (∀ (w : Word) (s : State),
    (w.extractLsb' 16 16 ≠ 0#16 ∨
      w.extractLsb' 0 8 ∉ [0x01#8, 0x10#8, 0x11#8, 0x12#8, 0x13#8, 0x20#8, 0x30#8] ∨
      (w.extractLsb' 0 8 ∈ [0x01#8, 0x10#8, 0x11#8, 0x13#8, 0x20#8, 0x30#8] ∧ w.extractLsb' 8 8 ≠ 0#8)) →
      regWrite 0x000 w s = .next { s with err := 4#8 }) ∧
  (∀ s : State, regWrite 0x000 0x00000000#32 s = .next { s with err := 4#8 })

/-- Rule R65: what the command statements assemble to, with `b` of `FEED` in 0..255 and any 32-bit `w` of
`CMDW`; an assembler rejects `FEED b` with `b` outside 0..255. -/
def Obligations.CommandStatementsAssemble : Prop :=
  Statement.expand (.command .reset) = some [.regWrite 0x000 0x00000001#32] ∧
  Statement.expand (.command .fenc) = some [.regWrite 0x000 0x00000010#32] ∧
  Statement.expand (.command .fdec) = some [.regWrite 0x000 0x00000011#32] ∧
  (∀ b : Nat, b ≤ 255 → Statement.expand (.feed b) = some [.regWrite 0x000 (BitVec.ofNat 32 (0x12 + 256 * b))]) ∧
  (∀ b : Nat, 255 < b → Statement.expand (.feed b) = none) ∧
  Statement.expand (.command .rxack) = some [.regWrite 0x000 0x00000013#32] ∧
  Statement.expand (.command .qdec) = some [.regWrite 0x000 0x00000020#32] ∧
  Statement.expand (.command .xtrap) = some [.regWrite 0x000 0x00000030#32] ∧
  (∀ w : Nat, w < 2 ^ 32 → Statement.expand (.cmdw w) = some [.regWrite 0x000 (BitVec.ofNat 32 w)])

/-! ### Steps, reset and the whole machine -/

/-- A step whose next event is a write of a legal word to `CMD` is the command of that word, run in the state
that has taken the event (rules R47, R60). -/
def Obligations.StepRunsTheCommandWritten : Prop :=
  ∀ (s : State) (rest : List Event) (w : Word) (i : Instr),
    s.pending = .host (.regWrite 0x000 w) :: rest → decodeWord w = .ok i →
      step s = exec i { s with pending := rest, returned := none }

/-- With no event to come a step changes nothing: the block never acts on its own (rules R28, R40). -/
def Obligations.StepWithoutEventIsIdle : Prop :=
  ∀ s : State, s.pending = [] → step s = .next s

/-- No command stops the block, in any state: the block never halts and never locks up (rules R170, R190). -/
def Obligations.EveryCommandEndsInANextState : Prop :=
  ∀ (i : Instr) (s : State), ∃ t, exec i s = .next t

/-- Rule R150: in every state, with a frame pending or not, `RESET` leaves every element of rule R24 zero and
`ERR = 0`, which is the power-on state, and leaves the host's side alone (the model's choice, log 6); its word is `0x00000001`, and a word with that operation code and any other
bit set is illegal and resets nothing. -/
def Obligations.ResetCommandZeroesEveryElement : Prop :=
  decodeWord 0x00000001#32 = .ok .reset ∧
  (∀ (w : Word) (s : State), w.extractLsb' 0 8 = 0x01#8 → w ≠ 0x00000001#32 →
    regWrite 0x000 w s = .next { s with err := 4#8 }) ∧
  ∀ s : State, ∃ t, exec .reset s = .next t ∧ t.SameElements State.reset ∧
    t.rxvalid = false ∧ t.dropcnt = 0#32 ∧ t.ulen = 0#9 ∧ t.txhdr = 0#16 ∧ t.txlen = 0#8 ∧ t.dhdr = 0#16 ∧
    t.dlen = 0#8 ∧ t.rxhdr = 0#16 ∧ t.rxlen = 0#8 ∧ t.rate = 0#8 ∧ t.ts0 = 0#64 ∧ t.q64 = 0#64 ∧
    t.qd = ⟨0#32, 0#32, 0#32, 0#32⟩ ∧ t.qrest = false ∧ t.qmag = false ∧ t.qaxis = 0#2 ∧
    t.xrest = false ∧ t.xmag = false ∧ t.xaxis = 0#2 ∧
    (∀ (i : Fin 8) (a : Fin 3), t.gyr[i][a] = 0#16) ∧ (∀ i : Fin 8, t.xq[i] = ⟨0#32, 0#32, 0#32, 0#32⟩) ∧
    (∀ i : Fin 8, t.xts[i] = 0#64) ∧ (∀ a : Nat, t.mem.read a = 0x00#8) ∧ (∀ j : Fin 244, t.ubuf[j] = 0x00#8) ∧
    t.err = 0#8 ∧ t.pending = s.pending ∧ t.returned = s.returned

/-- Rule R180: the power-on reset and the `RESET` command leave the same state, and it is `State.reset` in every
element. -/
def Obligations.BothResetsLeaveTheResetState : Prop :=
  ∀ s : State, handle .powerOnReset s = exec .reset s ∧
    ∃ t, exec .reset s = .next t ∧ t.SameElements State.reset

/-- The invariant holds right after reset. -/
def Obligations.ResetStateHasTheInvariant : Prop := State.reset.Inv

/-- The invariant is kept by every step, from every state that has it: the memory keeps its canonical form and
lists buffer bytes only, `0 ≤ ULEN ≤ 243` (rule R98), `ERR` is one of the codes of rule R160, the payload
sizes of decoded and emitted frames fit the slot, and the unpacker buffer is empty while a frame waits. -/
def Obligations.StepKeepsTheInvariant : Prop :=
  ∀ s t : State, s.Inv → step s = .next t → t.Inv

/-- Rule R161: a command that ends with an error leaves the whole state, except `ERR`, as it found it. -/
def Obligations.ErrorsAreAllOrNothing : Prop :=
  ∀ (i : Instr) (s t : State), exec i s = .next t → t.err ≠ 0#8 → t = { s with err := t.err }

/-- The blank cells of the table of rule R162: the codes each command can end with. -/
def Obligations.CommandsEndWithTheirOwnCodes : Prop :=
  ∀ (i : Instr) (s t : State), exec i s = .next t →
    t.err ∈ (match i with
      | .reset => [0#8]
      | .fenc => [0#8, 2#8]
      | .fdec => [0#8, 1#8, 2#8, 3#8]
      | .feed _ => [0#8, 6#8]
      | .rxack => [0#8]
      | .qdec => [0#8]
      | .xtrap => [0#8, 5#8])

/-- The "written by" column of the table of rule R24, every row of it but `ERR`, which every command writes: an
element that the column does not give to the command that runs, and every byte of a buffer that it does not give to
it, is as before. `RESET`, which the column gives every element, is apart. -/
def Obligations.CommandsWriteOnlyTheirElements : Prop :=
  ∀ (i : Instr) (s t : State), exec i s = .next t → i ≠ .reset →
    t.txhdr = s.txhdr ∧ t.txlen = s.txlen ∧ t.rate = s.rate ∧ t.ts0 = s.ts0 ∧ t.q64 = s.q64 ∧ t.gyr = s.gyr ∧
    (∀ a, 0x200 ≤ a → a < 0x2EC → t.mem.read a = s.mem.read a) ∧
    (i ≠ .fenc → ∀ a, 0x300 ≤ a → a < 0x3F4 → t.mem.read a = s.mem.read a) ∧
    ((∀ b, i ≠ .feed b) → t.dropcnt = s.dropcnt ∧ t.ulen = s.ulen ∧ t.ubuf = s.ubuf ∧ t.rxhdr = s.rxhdr ∧
      t.rxlen = s.rxlen ∧ ∀ a, 0x400 ≤ a → a < 0x4EC → t.mem.read a = s.mem.read a) ∧
    (i ≠ .fdec → t.dhdr = s.dhdr ∧ t.dlen = s.dlen) ∧
    ((∀ b, i ≠ .feed b) → i ≠ .rxack → t.rxvalid = s.rxvalid) ∧
    (i ≠ .qdec → t.qd = s.qd ∧ t.qrest = s.qrest ∧ t.qmag = s.qmag ∧ t.qaxis = s.qaxis) ∧
    (i ≠ .xtrap → t.xq = s.xq ∧ t.xts = s.xts ∧ t.xrest = s.xrest ∧ t.xmag = s.xmag ∧ t.xaxis = s.xaxis)

/-- Rule R12: what sets each flag. `RXVALID` is set only by `FEED` and cleared only by `RXACK` and `RESET`;
`QREST, QMAG, QAXIS` are written only by `QDEC` and `XREST, XMAG, XAXIS` only by `XTRAP`, beside `RESET`. -/
def Obligations.FlagsChangeOnlyByTheirCommands : Prop :=
  ∀ (i : Instr) (s t : State), exec i s = .next t →
    (s.rxvalid = false → t.rxvalid = true → ∃ b, i = .feed b) ∧
    (s.rxvalid = true → t.rxvalid = false → i = .rxack ∨ i = .reset) ∧
    (i ≠ .qdec → i ≠ .reset → t.qrest = s.qrest ∧ t.qmag = s.qmag ∧ t.qaxis = s.qaxis) ∧
    (i ≠ .xtrap → i ≠ .reset → t.xrest = s.xrest ∧ t.xmag = s.xmag ∧ t.xaxis = s.xaxis)

/-- `DROPCNT` goes up by exactly 1, modulo 2^32, inside a `FEED`, is cleared only by reset and `RESET`, and
nothing else that a step can do changes it (rules R17, R173). -/
def Obligations.DropCounterChangesOnlyByFeedAndReset : Prop :=
  ∀ s t : State, s.ulen.toNat ≤ 243 → step s = .next t → t.dropcnt ≠ s.dropcnt →
    (t.dropcnt = s.dropcnt + 1#32 ∧ ∃ w b rest, s.pending = .host (.regWrite 0x000 w) :: rest ∧
      decodeWord w = .ok (.feed b)) ∨
    (t.dropcnt = 0#32 ∧ ∃ e rest, s.pending = e :: rest ∧
      (e = .powerOnReset ∨ e = .host (.regWrite 0x000 0x00000001#32)))

/-- Rules R16 and R27: the bytes of `UBUF` at index `ULEN` and above are read by no rule. From two states that
differ in them at most, a step ends alike: in states that differ in them at most, with the same data returned,
or in the same refusal. -/
def Obligations.StaleUnpackerBytesAreUnobservable : Prop :=
  ∀ s t : State, s.ulen.toNat ≤ 243 → s.Indistinguishable t →
    (∀ s', step s = .next s' → ∃ t', step t = .next t' ∧ s'.Indistinguishable t') ∧
    (∀ r, step s = .refused r → step t = .refused r)

/-! ### The framer -/

/-- Rule R86. With `TXLEN > 236`, `ERR = 2` and nothing else changes. Otherwise `FBUF` holds start byte, CRC of
header and payload low byte first, size, header low byte first, payload and zero padding; `ERR = 0`; every
byte outside `FBUF` and every other element is as before. -/
def Obligations.FencEncodesTheFrame : Prop :=
  decodeWord 0x00000010#32 = .ok .fenc ∧
  (∀ s : State, 236 < s.txlen.toNat → exec .fenc s = .next { s with err := 2#8 }) ∧
  (∀ s : State, s.mem.wf → s.txlen.toNat ≤ 236 →
    ∃ t, exec .fenc s = .next t ∧ t = { s with mem := t.mem, err := 0#8 } ∧
      t.mem.read 0x300 = 0x02#8 ∧
      t.mem.readBytes 0x301 4 = le32 (crc32 (le16 s.txhdr ++ s.mem.readBytes 0x200 s.txlen.toNat)) ∧
      t.mem.read 0x305 = s.txlen ∧
      t.mem.readBytes 0x306 2 = le16 s.txhdr ∧
      (∀ j, j < s.txlen.toNat → t.mem.read (0x308 + j) = s.mem.read (0x200 + j)) ∧
      (∀ j, s.txlen.toNat ≤ j → j < 236 → t.mem.read (0x308 + j) = 0x00#8) ∧
      (∀ a, a < 0x300 ∨ 0x3F4 ≤ a → t.mem.read a = s.mem.read a))

/-- Rules R83 and R90. `FDEC` tests the start byte, then the size, then the CRC over `FBUF[6..8+n)`; the first
failure gives `ERR` 1, 2 or 3 and nothing else changes; with none, `DHDR` and `DLEN` take the frame's header
and size, `ERR = 0`, and nothing else changes. -/
def Obligations.FdecChecksAndDecodes : Prop :=
  decodeWord 0x00000011#32 = .ok .fdec ∧
  ∀ s : State,
    (s.mem.read 0x300 ≠ 0x02#8 → exec .fdec s = .next { s with err := 1#8 }) ∧
    (s.mem.read 0x300 = 0x02#8 → 236 < (s.mem.read 0x305).toNat → exec .fdec s = .next { s with err := 2#8 }) ∧
    (s.mem.read 0x300 = 0x02#8 → (s.mem.read 0x305).toNat ≤ 236 →
      crc32 (s.mem.readBytes 0x306 (2 + (s.mem.read 0x305).toNat)) ≠ fromLe32 (s.mem.readBytes 0x301 4) →
      exec .fdec s = .next { s with err := 3#8 }) ∧
    (s.mem.read 0x300 = 0x02#8 → (s.mem.read 0x305).toNat ≤ 236 →
      crc32 (s.mem.readBytes 0x306 (2 + (s.mem.read 0x305).toNat)) = fromLe32 (s.mem.readBytes 0x301 4) →
      exec .fdec s =
        .next { s with dhdr := fromLe16 (s.mem.readBytes 0x306 2), dlen := s.mem.read 0x305, err := 0#8 })

/-- Rule R87, both directions. `FENC` then `FDEC` ends with `ERR = 0` and gives back header, size and payload.
`FDEC` then `FENC` of what it gave reproduces the frame if and only if its padding was all zero. -/
def Obligations.EncodeAndDecodeRoundTrip : Prop :=
  (∀ s : State, s.mem.wf → s.txlen.toNat ≤ 236 →
    ∃ t u, exec .fenc s = .next t ∧ exec .fdec t = .next u ∧ u.err = 0#8 ∧ u.dhdr = s.txhdr ∧ u.dlen = s.txlen ∧
      ∀ j, j < s.txlen.toNat → u.mem.read (0x308 + j) = s.mem.read (0x200 + j)) ∧
  (∀ s t : State, s.mem.wf → exec .fdec s = .next t → t.err = 0#8 →
    ∀ m : Memory, m.wf → (∀ j, j < t.dlen.toNat → m.read (0x200 + j) = s.mem.read (0x308 + j)) →
      ∃ u, exec .fenc { t with txhdr := t.dhdr, txlen := t.dlen, mem := m } = .next u ∧
        ((∀ j, j < 244 → u.mem.read (0x300 + j) = s.mem.read (0x300 + j)) ↔
          ∀ j, t.dlen.toNat ≤ j → j < 236 → s.mem.read (0x308 + j) = 0x00#8))

/-- Rule R88, with what the property does not cover. In a frame that passes, changing one byte of header or payload
gives `BadCrc`; changing a padding byte is never detected; changing byte 0 gives `BadStartByte`; changing one of
bytes 1 to 4 gives `BadCrc`; changing byte 5 to more than 236 gives `BadPayloadSize`. -/
def Obligations.OneByteChangesAreDetected : Prop :=
  ∀ (f : List Byte) (k : Nat) (v : Byte), f.length = 244 → frameCheck f = .ok → v ≠ byteAt f k →
    (6 ≤ k → k < 8 + (byteAt f 5).toNat → frameCheck (f.set k v) = .badCrc) ∧
    (8 + (byteAt f 5).toNat ≤ k → k < 244 → frameCheck (f.set k v) = .ok) ∧
    (k = 0 → frameCheck (f.set k v) = .badStartByte) ∧
    (1 ≤ k → k ≤ 4 → frameCheck (f.set k v) = .badCrc) ∧
    (k = 5 → 236 < v.toNat → frameCheck (f.set k v) = .badPayloadSize)

/-- Rule R94: while a frame waits, `FEED` ends with `ERR = 6` and changes nothing else, whatever the byte. -/
def Obligations.FeedIsRefusedWhileAFrameWaits : Prop :=
  ∀ (b : Byte) (s : State), s.rxvalid = true → exec (.feed b) s = .next { s with err := 6#8 }

/-- Rule R95 up to a full buffer: with no frame waiting and fewer than 243 bytes buffered, `FEED` appends its byte
behind them, `ULEN` goes up by 1, `ERR = 0`, and nothing else changes. -/
def Obligations.FeedAppendsItsByte : Prop :=
  ∀ (b : Byte) (s : State), s.rxvalid = false → s.ulen.toNat < 243 →
    ∃ t, exec (.feed b) s = .next t ∧ t = { s with ubuf := t.ubuf, ulen := s.ulen + 1#9, err := 0#8 } ∧
      t.buffered = s.buffered ++ [b]

/-- Rules R93, R95 and R167 with the buffer full and no valid frame in it: the oldest byte goes and is counted
modulo 2^32, `ULEN` stays 243, `ERR = 0`, and nothing else changes. -/
def Obligations.FeedDiscardsOneByteOfAnInvalidWindow : Prop :=
  ∀ (b : Byte) (s : State), s.rxvalid = false → s.ulen.toNat = 243 → frameCheck (s.buffered ++ [b]) ≠ .ok →
    ∃ t, exec (.feed b) s = .next t ∧ t = { s with ubuf := t.ubuf, dropcnt := s.dropcnt + 1#32, err := 0#8 } ∧
      t.buffered = s.buffered.tail ++ [b]

/-- Rules R95 and R97 with a valid frame completed: header, size and the whole slot, padding included, go to
`RXHDR`, `RXLEN`, `RXPAY`; `RXVALID = 1`, `ULEN = 0`, `ERR = 0`; every byte outside `RXPAY` and every other
element, `DROPCNT` among them, is as before. -/
def Obligations.FeedEmitsAValidFrame : Prop :=
  ∀ (b : Byte) (s : State), s.mem.wf → s.rxvalid = false → s.ulen.toNat = 243 →
    frameCheck (s.buffered ++ [b]) = .ok →
    ∃ t, exec (.feed b) s = .next t ∧
      t = { s with
            ubuf := t.ubuf, mem := t.mem, ulen := 0#9, rxvalid := true, err := 0#8
            rxhdr := fromLe16 [byteAt (s.buffered ++ [b]) 6, byteAt (s.buffered ++ [b]) 7]
            rxlen := byteAt (s.buffered ++ [b]) 5 } ∧
      (∀ j, j < 236 → t.mem.read (0x400 + j) = byteAt (s.buffered ++ [b]) (8 + j)) ∧
      (∀ a, a < 0x400 ∨ 0x4EC ≤ a → t.mem.read a = s.mem.read a)

/-- Rule R96: the loop of `FEED` runs its body at most once, so one `FEED` discards at most one byte and emits at
most one frame, never both. -/
def Obligations.FeedLoopRunsAtMostOnce : Prop :=
  ∀ (b : Byte) (s : State), s.ulen.toNat ≤ 243 →
    (∀ passes, unpackLoop (passes + 1) (appendByte b s) = unpackLoop 1 (appendByte b s)) ∧
    ∀ t, exec (.feed b) s = .next t →
      (t.dropcnt = s.dropcnt ∧ t.rxvalid = s.rxvalid) ∨
      (t.dropcnt = s.dropcnt + 1#32 ∧ t.rxvalid = s.rxvalid) ∨
      (t.dropcnt = s.dropcnt ∧ s.rxvalid = false ∧ t.rxvalid = true)

/-- Rule R99: `RXACK` clears `RXVALID`, sets `ERR = 0` and changes nothing else, whether a frame waits or not. -/
def Obligations.RxackClearsOnlyTheFlag : Prop :=
  decodeWord 0x00000013#32 = .ok .rxack ∧
  ∀ s : State, exec .rxack s = .next { s with rxvalid := false, err := 0#8 }

/-- Rule R100: feeding a byte sequence one `FEED` a byte, with `RXACK` after each emission, takes the same frames in
the same order, ends with the same buffered bytes and adds the same to `DROPCNT` as the source's algorithm run on
the sequence split into `feed` calls in any way. -/
def Obligations.ChunkingDoesNotMatter : Prop :=
  ∀ (s : State) (chunks : List (List Byte)), s.mem.wf → s.rxvalid = false → s.ulen.toNat ≤ 243 →
    let r := feedAll chunks.flatten s
    let d := sourceFeed chunks s.buffered
    r.2 = d.frames ∧ r.1.buffered = d.rest ∧ r.1.dropcnt = s.dropcnt + BitVec.ofNat 32 d.dropped

/-- The scan of rule R101 from any state: what the feed-and-acknowledge loop takes, keeps and counts is what the
left-to-right scan of the buffered bytes and the stream gives; every byte of them is in a frame taken, dropped, or
still buffered. -/
def Obligations.FeedingIsTheScan : Prop :=
  ∀ (s : State) (bytes : List Byte), s.mem.wf → s.rxvalid = false → s.ulen.toNat ≤ 243 →
    let r := feedAll bytes s
    let d := drain (s.buffered ++ bytes)
    r.2 = d.frames ∧ r.1.buffered = d.rest ∧ r.1.dropcnt = s.dropcnt + BitVec.ofNat 32 d.dropped ∧
      r.1.rxvalid = false ∧ d.rest.length < 244 ∧
      s.buffered.length + bytes.length = 244 * d.frames.length + d.dropped + d.rest.length

/-- Rules R101 and R102: from reset, any garbage in which no window passes the check, followed by a valid frame,
gives that one frame as soon as its last byte is fed, every garbage byte dropped, and an empty buffer. -/
def Obligations.FrameAfterGarbageIsRecovered : Prop :=
  ∀ g f : List Byte, f.length = 244 → frameCheck f = .ok →
    (∀ p, p < g.length → frameCheck (slice (g ++ f) p (p + 244)) ≠ .ok) →
    let r := feedAll (g ++ f) State.reset
    r.2 = [⟨headerField f, byteAt f 5, f.drop 8⟩] ∧ r.1.dropcnt = BitVec.ofNat 32 g.length ∧ r.1.ulen = 0#9

/-- The BLE contract of rule R59 and property 6 of `95_test_vectors.md`: a notification with leading byte `b0` holds
`k = 0xFF − b0` real-time frames, clamped to 254 (so `0x00` gives 254); with at least `1 + 244·k` bytes it splits into
`k` frames of 244 bytes each, in order, and the send-buffer bytes; with fewer it has no meaning (the model's choice,
log 14). -/
def Obligations.NotificationsSplitIntoFrames : Prop :=
  ∀ (b0 : Byte) (b : List Byte),
    let k := min (255 - b0.toNat) 254
    (1 + 244 * k ≤ (b0 :: b).length →
      ∃ frames rest, splitNotification (b0 :: b) = some (frames, rest) ∧
        frames.length = k ∧ (∀ f ∈ frames, f.length = 244) ∧ frames.flatten ++ rest = b) ∧
    ((b0 :: b).length < 1 + 244 * k → splitNotification (b0 :: b) = none)

/-! ### The quaternion decoder -/

/-- Rule R119, with the decode of rules R114 to R118 written out: `QDEC` computes the three stored components and the
omitted one in the order the rules give, puts each where the table of rule R116 says, takes the flags from bits
62 and 63 and the axis from bits 61:60, `ERR = 0`, and changes nothing else. -/
def Obligations.QdecPlacesTheComponents : Prop :=
  decodeWord 0x00000020#32 = .ok .qdec ∧
  ∀ s : State,
    let stored := fun r : BitVec 20 => num.fsub (num.fdiv (num.i2f (r.toNat : Int)) 0x493504E8#32) 0x3F3504F3#32
    let c0 := stored (s.q64.extractLsb' 0 20)
    let c1 := stored (s.q64.extractLsb' 20 20)
    let c2 := stored (s.q64.extractLsb' 40 20)
    let d := num.fsub 0x3F800000#32 (num.fadd (num.fadd (num.fmul c0 c0) (num.fmul c1 c1)) (num.fmul c2 c2))
    let m := if num.flt0 d then 0x00000000#32 else num.fsqrt d
    let axis := s.q64.extractLsb' 60 2
    ∃ q, exec .qdec s =
        .next { s with qd := q, qrest := s.q64.getLsbD 62, qmag := s.q64.getLsbD 63, qaxis := axis, err := 0#8 } ∧
      (axis = 0#2 → q = ⟨m, c2, c1, c0⟩) ∧
      (axis = 1#2 → q = ⟨c0, m, c2, c1⟩) ∧
      (axis = 2#2 → q = ⟨c1, c0, m, c2⟩) ∧
      (axis = 3#2 → q = ⟨c2, c1, c0, m⟩)

/-- The real-number part of rule R120: every stored component lies in `[−1/√2, 1/√2]`, the omitted one in `[0, 1]`;
the square of the norm is 1 where the stored squares sum to at most 1, and otherwise their sum, which is at most
`3/2`, with the omitted component 0. -/
def Obligations.DecodedNormUnderReal : Prop :=
  ∀ w : DWord,
    let d := q3Decode realNum w
    (∀ i : Fin 4, |Quat.get d.q i| ≤ 1 ∧ (BitVec.ofNat 2 i.val ≠ d.axis → |Quat.get d.q i| ≤ 1 / Real.sqrt 2) ∧
      (BitVec.ofNat 2 i.val = d.axis → 0 ≤ Quat.get d.q i)) ∧
    (storedSq w ≤ 1 → Quat.normSq d.q = 1) ∧
    (1 < storedSq w → Quat.normSq d.q = storedSq w ∧ storedSq w ≤ 3 / 2 ∧
      ∀ i : Fin 4, BitVec.ofNat 2 i.val = d.axis → Quat.get d.q i = 0)

/-- The last sentence of rule R120: under `binary32` every component that `q3_decode` gives is a finite number, for
every word. -/
def Obligations.DecodeStaysFiniteUnderBinary32 : Prop :=
  ∀ (w : DWord) (i : Fin 4), F32.isFinite (Quat.get (q3Decode num w).q i) = true

/-- Rule R122 for the stored components, and the flags: encoding a unit quaternion with the reference encoder and
decoding it gives back each stored component of the quaternion kept to within half a step `1/(2·K1)`, and the
flags and the axis exactly. -/
def Obligations.StoredComponentsComeBackWithinHalfAStep : Prop :=
  ∀ (q : Quat ℝ) (rest mag : Bool), Quat.normSq q = 1 →
    let d := q3Decode realNum (q3EncodeRef q rest mag)
    d.rest = rest ∧ d.mag = mag ∧ d.axis = BitVec.ofNat 2 (largestIndex q).val ∧
    ∀ c : Fin 4, c ≠ largestIndex q →
      |Quat.get d.q c - Quat.get (keptQuat q) c| ≤ 1 / (2 * RealConst.value .k1)

/-! ### The extrapolation engine -/

/-- Rules R131 and R165: with `RATE` none of the six legal rates, `XTRAP` ends with `ERR = 5` and changes nothing
else. -/
def Obligations.IllegalRatesAreRefused : Prop :=
  ∀ s : State, s.rate.toNat ∉ [1, 10, 25, 50, 100, 200] → exec .xtrap s = .next { s with err := 5#8 }

/-- Rule R130 with the rate tables of R132 and the recurrence of R137: at each legal rate `XTRAP` leaves the decoded
anchor in `XQ[0]`; in each later sample the previous one where the sample's three counts are zero, and otherwise
the normalised product with the increment; the timestamps; the anchor's flags; `ERR = 0`; and nothing else
changes. At any other rate `ERR = 5` and nothing else changes. -/
def Obligations.XtrapFollowsTheRecurrence : Prop :=
  decodeWord 0x00000030#32 = .ok .xtrap ∧
  (∀ s : State, s.rate.toNat ∉ [1, 10, 25, 50, 100, 200] → exec .xtrap s = .next { s with err := 5#8 }) ∧
  ∀ (s : State) (rate period : Nat) (half : Word),
    (rate, period, half) ∈
      [(200, 5000000, 0x3B23D70A#32), (100, 10000000, 0x3BA3D70A#32), (50, 20000000, 0x3C23D70A#32),
        (25, 40000000, 0x3CA3D70A#32), (10, 100000000, 0x3D4CCCCD#32), (1, 1000000000, 0x3F000000#32)] →
    s.rate.toNat = rate →
    ∃ t, exec .xtrap s = .next t ∧
      t = { s with
            xq := t.xq, xts := t.xts, xrest := s.q64.getLsbD 62, xmag := s.q64.getLsbD 63
            xaxis := s.q64.extractLsb' 60 2, err := 0#8 } ∧
      t.xq[0] = (q3Decode num s.q64).q ∧
      (∀ i : Fin 7,
        let g := s.gyr[i.val + 1]
        let rateOfCount := fun c : Half => num.fmul (num.i2f c.toInt) 0x3A8BA058#32
        t.xq[i.val + 1] =
          if g[0] = 0#16 ∧ g[1] = 0#16 ∧ g[2] = 0#16 then t.xq[i.val]
          else normalize num
            (hamilton num t.xq[i.val] (deltaQ num (rateOfCount g[0]) (rateOfCount g[1]) (rateOfCount g[2]) half))) ∧
      (∀ i : Fin 8, t.xts[i] = s.ts0 + BitVec.ofNat 64 (i.val * period))

/-- Rule R139 as integers: after `XTRAP` at a legal rate, `XTS[i]` read as two's complement is `TS0 + i·(10^9/RATE)`
wrapped modulo 2^64 into the signed range, and `XTS[0] = TS0`. -/
def Obligations.TimestampsCountUpByThePeriod : Prop :=
  ∀ s : State, s.rate.toNat ∈ [1, 10, 25, 50, 100, 200] →
    ∃ t, exec .xtrap s = .next t ∧ t.xts[0] = s.ts0 ∧
      ∀ i : Fin 8, t.xts[i].toInt = (s.ts0.toInt + (i.val : Int) * (10 ^ 9 / (s.rate.toNat : Int))).bmod (2 ^ 64)

/-- Property 5 of the source and rule R137: where all counts of `GYR[1..7]` are zero, all eight quaternions equal
the anchor, bit for bit, for the hardware's numbers; and under every `NUM`, for any number of samples. -/
def Obligations.ZeroGyroRepeatsTheAnchor : Prop :=
  (∀ s : State, s.rate.toNat ∈ [1, 10, 25, 50, 100, 200] →
    (∀ (i : Fin 8) (a : Fin 3), 1 ≤ i.val → s.gyr[i][a] = 0#16) →
    ∃ t, exec .xtrap s = .next t ∧ ∀ i : Fin 8, t.xq[i] = (q3Decode num s.q64).q) ∧
  (∀ (F : Type) (anyNum : Num F) (h : F) (q0 : Quat F) (g : Nat → Counts) (n : Nat),
    (∀ j, 1 ≤ j → j ≤ n → g j = ⟨0, 0, 0⟩) → sample anyNum h q0 g n = q0)

/-- Rule R140: `GYR[0]` enters no result of `XTRAP`. In two states that differ only there, it ends with the same
result elements. -/
def Obligations.GyroOfSampleZeroIsIgnored : Prop :=
  ∀ (s : State) (g : Vector Half 3), ∃ t u,
    exec .xtrap s = .next t ∧ exec .xtrap { s with gyr := s.gyr.set 0 g } = .next u ∧
      u.xq = t.xq ∧ u.xts = t.xts ∧ u.xrest = t.xrest ∧ u.xmag = t.xmag ∧ u.xaxis = t.xaxis ∧ u.err = t.err

/-- Rule R185: `QDEC` and `XTRAP` decode the same `Q64` alike, whichever runs first: after both, in either order,
`XQ[0]` is `QD` and `XFLAGS` is `QFLAGS`, and each command leaves the same results in either order. -/
def Obligations.AnchorAgreesWithQdec : Prop :=
  ∀ s : State, s.rate.toNat ∈ [1, 10, 25, 50, 100, 200] →
    ∃ t u v x, exec .qdec s = .next t ∧ exec .xtrap t = .next u ∧ exec .xtrap s = .next v ∧ exec .qdec v = .next x ∧
      u.xq[0] = u.qd ∧ u.xflagsWord = u.qflagsWord ∧ x.xq[0] = x.qd ∧ x.xflagsWord = x.qflagsWord ∧
      v.xq = u.xq ∧ v.xts = u.xts ∧ v.xflagsWord = u.xflagsWord ∧ x.qd = t.qd ∧ x.qflagsWord = t.qflagsWord

/-- Rule R141 (a) and (c), under `NUM = real`: the increment of a non-zero triplet has norm 1, and after a sample of norm 1
normalising the product changes nothing. -/
def Obligations.IncrementsAreUnitUnderReal : Prop :=
  ∀ (g : Counts) (h : ℝ) (p : Quat ℝ), g.isZero = false →
    let w := rateOf realNum g
    let dq := deltaQ realNum w.1 w.2.1 w.2.2 h
    Quat.normSq dq = 1 ∧
    (Quat.normSq p = 1 → normalize realNum (hamilton realNum p dq) = hamilton realNum p dq)

/-- Rule R141 (b), under `NUM = real`: samples at or after the first non-zero triplet have norm 1, for every anchor word;
before it they equal sample 0. -/
def Obligations.SamplesAreUnitUnderReal : Prop :=
  ∀ (w : DWord) (h : ℝ) (g : Nat → Counts) (i : Nat),
    let out := sample realNum h (q3Decode realNum w).q g
    ((∃ j, 1 ≤ j ∧ j ≤ i ∧ (g j).isZero = false) → Quat.normSq (out i) = 1) ∧
    ((∀ j, 1 ≤ j → j ≤ i → (g j).isZero = true) → out i = out 0)

/-- Rule R141 (d), under `NUM = real`: the half-angle is at most 30.23 rad for any counts and rate, and at most 0.15115 rad
at 200 Hz. -/
def Obligations.HalfAngleIsBounded : Prop :=
  ∀ (g : Counts) (r : SampleRate),
    -32768 ≤ g.x → g.x ≤ 32767 → -32768 ≤ g.y → g.y ≤ 32767 → -32768 ≤ g.z → g.z ≤ 32767 →
    let w := rateOf realNum g
    let th := Real.sqrt (w.1 ^ 2 + w.2.1 ^ 2 + w.2.2 ^ 2) * RealConst.value (.halfPeriod r)
    th ≤ 30.23 ∧ (r = .hz200 → th ≤ 0.15115)

/-- Rule R141 (e), under `NUM = real`: with one constant non-zero triplet and an anchor of norm 1, sample `i` is the
anchor turned by `i` half-angles about the rate's axis. -/
def Obligations.ConstantRateClosedForm : Prop :=
  ∀ (q0 : Quat ℝ) (h : ℝ) (c : Counts) (i : Nat), Quat.normSq q0 = 1 → c.isZero = false →
    let w := rateOf realNum c
    let n := Real.sqrt (w.1 ^ 2 + w.2.1 ^ 2 + w.2.2 ^ 2)
    let a := (i : ℝ) * (n * h)
    sample realNum h q0 (fun _ => c) i =
      hamilton realNum q0
        ⟨Real.cos a, Real.sin a * (w.1 / n), Real.sin a * (w.2.1 / n), Real.sin a * (w.2.2 / n)⟩

/-! ### The arithmetic of `NUM = binary32` -/

/-- The constant patterns of rules R111 and R132 are the real constants rounded to nearest, ties to even. -/
def Obligations.ConstantsAreTheRoundedReals : Prop :=
  ∀ c : RealConst, F32.NearestEven (RealConst.value c) (num.fconst c)

/-- Rule R110, the whole record, for both numbers: the commands' functions are those of the record, the named constants
are `fconst` of their real values, `flt0` is true exactly when `val` is negative (of the infinities and NaNs too, whose
`val` is the model's choice, log 13), and `i2f` has the integer's value. Under `binary32`, `fconst` of any real is that
real rounded to nearest, ties to even (rule R111). -/
def Obligations.NumberRecordsAreWhole : Prop :=
  wholeBinary32.toNum = num ∧ wholeReal.toNum = realNum ∧ wholeBinary32.Sound ∧ wholeReal.Sound ∧
  (∀ n : Int, n.natAbs ≤ 2 ^ 20 →
    wholeBinary32.val (wholeBinary32.i2f n) = (n : ℝ) ∧ wholeReal.val (wholeReal.i2f n) = (n : ℝ)) ∧
  (∀ r : ℝ, F32.NearestEven r (wholeBinary32.fconstOf r))

/-- Rule R111 for `fadd`, `fsub` and `fmul`: on finite operands each is the exact real result rounded to nearest, ties
to even. -/
def Obligations.SumsAndProductsAreCorrectlyRounded : Prop :=
  ∀ a b : F32, F32.isFinite a = true → F32.isFinite b = true →
    F32.NearestEven (F32.toReal a + F32.toReal b) (num.fadd a b) ∧
    F32.NearestEven (F32.toReal a - F32.toReal b) (num.fsub a b) ∧
    F32.NearestEven (F32.toReal a * F32.toReal b) (num.fmul a b)

/-- Rule R111 for `fdiv` and `fsqrt`: the quotient by a non-zero finite number and the root of a non-negative one are
the exact real results rounded to nearest, ties to even. -/
def Obligations.QuotientsAndRootsAreCorrectlyRounded : Prop :=
  ∀ a b : F32, F32.isFinite a = true → F32.isFinite b = true →
    (F32.toReal b ≠ 0 → F32.NearestEven (F32.toReal a / F32.toReal b) (num.fdiv a b)) ∧
    (0 ≤ F32.toReal a → F32.NearestEven (Real.sqrt (F32.toReal a)) (num.fsqrt a))

/-- Rule R111: `i2f` is exact up to `2^24` in magnitude, and `flt0` is `a < 0` on finite numbers, false for -0. -/
def Obligations.IntegerConversionIsExact : Prop :=
  (∀ n : Int, n.natAbs ≤ 2 ^ 24 → F32.isFinite (num.i2f n) = true ∧ F32.toReal (num.i2f n) = (n : ℝ)) ∧
  (∀ a : F32, F32.isFinite a = true → (num.flt0 a = true ↔ F32.toReal a < 0))

/-- The fixed-point sine and cosine that hold the free values of rule R113 (log 1, the model's own) are exact to
`2^-400` for arguments of magnitude at most 64. -/
def Obligations.FixedPointSineAndCosineAreAccurate : Prop :=
  ∀ x : Int, x.natAbs ≤ 64 * 2 ^ 512 →
    |(sinFixed x : ℝ) / 2 ^ 512 - Real.sin ((x : ℝ) / 2 ^ 512)| ≤ 1 / 2 ^ 400 ∧
    |(cosFixed x : ℝ) / 2 ^ 512 - Real.cos ((x : ℝ) / 2 ^ 512)| ≤ 1 / 2 ^ 400

/-- Rule R113 in the model's terms (log 1): at every finite argument of magnitude at most 64 the sine and the cosine that
`XTRAP` uses, whatever the free values, are within one unit in the last place of the fixed-point ones; and
`fsin(+0) = +0`, `fcos(+0) = 1.0`. -/
def Obligations.SineAndCosineAreHeldWithinOneUlp : Prop :=
  (∀ (a : F32) (s : Bool) (m : Nat) (e : Int), F32.kind a = .fin s m e →
    (trigScale s m e).natAbs ≤ 64 * 2 ^ 512 →
      withinUlp (sinFixed (trigScale s m e)) (num.fsin a) = true ∧
      withinUlp (cosFixed (trigScale s m e)) (num.fcos a) = true) ∧
  num.fsin 0x00000000#32 = 0x00000000#32 ∧ num.fcos 0x00000000#32 = 0x3F800000#32

/-! ### The host port -/

/-- Rule R42: a write of a writable register takes the low bits of the word, a write of one half of a 64-bit register
changes that half only, no value is checked, and nothing else changes. -/
def Obligations.RegisterWritesTakeTheLowBits : Prop :=
  ∀ (s : State) (w : Word),
    regWrite 0x014 w s = .next { s with txhdr := w.setWidth 16 } ∧
    regWrite 0x018 w s = .next { s with txlen := w.setWidth 8 } ∧
    regWrite 0x02C w s = .next { s with rate := w.setWidth 8 } ∧
    regWrite 0x030 w s = .next { s with ts0 := s.ts0.extractLsb' 32 32 ++ w } ∧
    regWrite 0x034 w s = .next { s with ts0 := w ++ s.ts0.extractLsb' 0 32 } ∧
    regWrite 0x038 w s = .next { s with q64 := s.q64.extractLsb' 32 32 ++ w } ∧
    regWrite 0x03C w s = .next { s with q64 := w ++ s.q64.extractLsb' 0 32 } ∧
    ∀ (i : Fin 8) (a : Fin 3),
      regWrite (0x080 + 4 * (3 * i.val + a.val)) w s =
        .next { s with gyr := s.gyr.set i (s.gyr[i].set a (w.setWidth 16)) }

/-- Rule R41 with the fields of rule R23: what a read of each readable word register returns, the two halves of the
64-bit ones among them; a read changes no element. -/
def Obligations.RegisterReadsReturnTheElements : Prop :=
  ∀ s : State,
    let gives := fun (off : Nat) (v : Word) => regRead off s = .next { s with returned := some (.word v) }
    gives 0x004 (if s.rxvalid then 1#32 else 0#32) ∧ gives 0x008 (s.err.setWidth 32) ∧ gives 0x00C s.dropcnt ∧
    gives 0x010 (s.ulen.setWidth 32) ∧ gives 0x014 (s.txhdr.setWidth 32) ∧ gives 0x018 (s.txlen.setWidth 32) ∧
    gives 0x01C (s.dhdr.setWidth 32) ∧ gives 0x020 (s.dlen.setWidth 32) ∧ gives 0x024 (s.rxhdr.setWidth 32) ∧
    gives 0x028 (s.rxlen.setWidth 32) ∧ gives 0x02C (s.rate.setWidth 32) ∧
    gives 0x030 (s.ts0.extractLsb' 0 32) ∧ gives 0x034 (s.ts0.extractLsb' 32 32) ∧
    gives 0x038 (s.q64.extractLsb' 0 32) ∧ gives 0x03C (s.q64.extractLsb' 32 32) ∧
    gives 0x040 s.qd.w ∧ gives 0x044 s.qd.x ∧ gives 0x048 s.qd.y ∧ gives 0x04C s.qd.z ∧
    gives 0x050 ((if s.qrest then 1#32 else 0#32) + (if s.qmag then 2#32 else 0#32) + 4#32 * s.qaxis.setWidth 32) ∧
    gives 0x054 ((if s.xrest then 1#32 else 0#32) + (if s.xmag then 2#32 else 0#32) + 4#32 * s.xaxis.setWidth 32) ∧
    (∀ (i : Fin 8) (a : Fin 3), gives (0x080 + 4 * (3 * i.val + a.val)) (s.gyr[i][a].setWidth 32)) ∧
    (∀ i : Fin 8, gives (0x100 + 16 * i.val) s.xq[i].w ∧ gives (0x104 + 16 * i.val) s.xq[i].x ∧
      gives (0x108 + 16 * i.val) s.xq[i].y ∧ gives (0x10C + 16 * i.val) s.xq[i].z ∧
      gives (0x180 + 8 * i.val) (s.xts[i].extractLsb' 0 32) ∧
      gives (0x184 + 8 * i.val) (s.xts[i].extractLsb' 32 32))

/-- Rules R43 and R44: a byte write to `TXPAY` or `FBUF` changes that byte only, a byte read of a buffer returns the
byte and changes no element, and the only size is 1: an access of another size is refused (the reason's name is the
model's own, log 8). -/
def Obligations.BufferBytesReadBack : Prop :=
  (∀ (s : State) (off : Nat) (b : Byte), s.mem.wf → (0x200 ≤ off ∧ off ≤ 0x2EB) ∨ (0x300 ≤ off ∧ off ≤ 0x3F3) →
    ∃ t, memWrite off 1 b s = .next t ∧ t = { s with mem := t.mem } ∧ t.mem.read off = b ∧
      ∀ a, a ≠ off → t.mem.read a = s.mem.read a) ∧
  (∀ (s : State) (off : Nat),
    (0x200 ≤ off ∧ off ≤ 0x2EB) ∨ (0x300 ≤ off ∧ off ≤ 0x3F3) ∨ (0x400 ≤ off ∧ off ≤ 0x4EB) →
    memRead off 1 s = .next { s with returned := some (.byte (s.mem.read off)) }) ∧
  (∀ (s : State) (off size : Nat) (b : Byte), size ≠ 1 →
    memRead off size s = .refused (.refusedAccess .badSize) ∧
    memWrite off size b s = .refused (.refusedAccess .badSize))

/-- Rule R46: a host access is performed exactly when the tables of rules R24 and R45 permit it, in every state; any
other is refused, by name, and gives no state and no data. -/
def Obligations.AccessesAreRefusedExactlyWhenNotPermitted : Prop :=
  ∀ (a : HostAction) (s : State),
    (a.permitted = true → ∃ t, hostAction a s = .next t) ∧
    (a.permitted = false → ∃ e, hostAction a s = .refused (.refusedAccess e))

/-- Rule R28: state changes only by a host write, a command or a reset. A step that is idle, or whose event is a host
read, changes no element. -/
def Obligations.ReadsAndIdlingChangeNoElement : Prop :=
  ∀ s t : State, step s = .next t →
    (s.pending = [] ∨ (∃ off rest, s.pending = .host (.regRead off) :: rest) ∨
      (∃ off size rest, s.pending = .host (.memRead off size) :: rest)) →
    s.SameElements t
end

