-- ==== Sys2Proof/Laws/Bytes.lean ====
section
/-!
SUPPORT. Little-endian assembly undoes little-endian extraction (rule R48), and reading a byte string.
-/

namespace Sys2Proof

/-- A bit of a 16-bit word assembled from two bytes. -/
theorem getLsbD_append16 (b1 b0 : Byte) (i : Nat) :
    BitVec.getLsbD (b1 ++ b0 : Half) i = if i < 8 then b0.getLsbD i else b1.getLsbD (i - 8) :=
  BitVec.getLsbD_append.trans (by split <;> simp_all)

/-- A bit of a 32-bit word assembled from four bytes. -/
theorem getLsbD_append32 (b3 b2 b1 b0 : Byte) (i : Nat) :
    BitVec.getLsbD (b3 ++ b2 ++ b1 ++ b0 : Word) i =
      if i < 8 then b0.getLsbD i
      else if i < 16 then b1.getLsbD (i - 8)
      else if i < 24 then b2.getLsbD (i - 16)
      else b3.getLsbD (i - 24) := by
  refine BitVec.getLsbD_append.trans ?_
  rw [BitVec.getLsbD_append, BitVec.getLsbD_append]
  split_ifs <;> first | rfl | omega

@[simp] theorem fromLe16_le16 (v : Half) : fromLe16 (le16 v) = v := by
  refine BitVec.eq_of_getLsbD_eq fun i hi => ?_
  simp only [fromLe16, le16, byteAt, List.getD_cons_succ, List.getD_cons_zero]
  rw [getLsbD_append16]
  split_ifs with h1 <;> rw [BitVec.getLsbD_extractLsb']
  · simp [h1]
  · rw [show 8 + (i - 8) = i by omega]; simp; intro; omega

@[simp] theorem fromLe32_le32 (v : Word) : fromLe32 (le32 v) = v := by
  refine BitVec.eq_of_getLsbD_eq fun i hi => ?_
  simp only [fromLe32, le32, byteAt, List.getD_cons_succ, List.getD_cons_zero]
  rw [getLsbD_append32]
  split_ifs with h1 h2 h3 <;> rw [BitVec.getLsbD_extractLsb']
  · simp [h1]
  · rw [show 8 + (i - 8) = i by omega]; simp; intro; omega
  · rw [show 16 + (i - 16) = i by omega]; simp; intro; omega
  · rw [show 24 + (i - 24) = i by omega]; simp; intro; omega

/-- A byte inside a string is the string's element. -/
theorem byteAt_of_lt (bs : List Byte) (i : Nat) (h : i < bs.length) : byteAt bs i = bs[i] := by
  simp [byteAt, h]

end Sys2Proof
end

