-- ==== Sys2Proof/Laws/Extrapolation.lean ====
section
/-!
SUPPORT. The recurrence of the extrapolation engine and what `XTRAP` leaves in each result element.
-/

namespace Sys2Proof.Machine

variable {F : Type} (num' : Num F) (h : F) (q0 : Quat F) (g : Nat → Counts)

@[simp] theorem sample_zero : sample num' h q0 g 0 = q0 := rfl

theorem sample_succ (i : Nat) :
    sample num' h q0 g (i + 1) = nextSample num' h (sample num' h q0 g i) (g (i + 1)) := rfl

/-- A zero triplet repeats the previous sample exactly (rule R137). -/
theorem nextSample_of_zero (prev : Quat F) (c : Counts) (hc : c.isZero = true) :
    nextSample num' h prev c = prev := by simp [nextSample, hc]

/-- Samples depend on the counts from 1 on only (rule R140). -/
theorem sample_congr (g' : Nat → Counts) (n : Nat) (hg : ∀ j, 1 ≤ j → j ≤ n → g j = g' j) :
    sample num' h q0 g n = sample num' h q0 g' n := by
  induction n with
  | zero => rfl
  | succ n ih =>
    rw [sample_succ, sample_succ, ih fun j h1 h2 => hg j h1 (by omega), hg (n + 1) (by omega) (by omega)]

variable (r : SampleRate) (s : State)

/-- `XQ[i]` after `XTRAP` at a legal rate. -/
theorem extrapolate_xq (i : Nat) (hi : i < 8) :
    (extrapolate r s).xq[i] = sample num (num.fconst (.halfPeriod r)) (q3Decode num s.q64).q s.counts i := by
  simp [extrapolate, State.complete, State.setErr]

/-- `XTS[i]` after `XTRAP` at a legal rate. -/
theorem extrapolate_xts (i : Nat) (hi : i < 8) : (extrapolate r s).xts[i] = timestamp s.ts0 r i := by
  simp [extrapolate, State.complete, State.setErr]

/-- `XTRAP` changes nothing but its result elements and `ERR`. -/
theorem extrapolate_frame :
    extrapolate r s =
      { s with
        xq := (extrapolate r s).xq, xts := (extrapolate r s).xts, xrest := restField s.q64
        xmag := magField s.q64, xaxis := axisField s.q64, err := 0#8 } := rfl

/-- The rates `XTRAP` accepts are the six of rule R131. -/
theorem ofByte_eq_none_iff (b : Byte) :
    SampleRate.ofByte b = none ↔ b ∉ [1#8, 10#8, 25#8, 50#8, 100#8, 200#8] := by
  unfold SampleRate.ofByte; split_ifs <;> simp_all

/-- The counts of sample `i` are the signed readings of `GYR[i]`. -/
theorem State.counts_eq (i : Nat) (hi : i < 8) : s.counts i = countsOf s.gyr[i] := by
  simp [State.counts, hi]

end Sys2Proof.Machine
end

