-- ==== Sys2Proof/Laws/Memory.lean ====
section
/-!
SUPPORT. The laws of the memory: a read after a write, the canonical form kept by every operation, and equal
memories where every byte reads the same.
-/

namespace Sys2Proof.Machine

/-! ### One byte -/

@[simp] theorem Memory.read_nil (a : Nat) : Memory.read [] a = Memory.blank := rfl

theorem Memory.read_cons (k : Nat) (v : Byte) (m : Memory) (a : Nat) :
    Memory.read ((k, v) :: m) a = if k = a then v else Memory.read m a := rfl

/-- An offset that no pair lists reads as blank. -/
theorem Memory.read_of_not_listed (m : Memory) (a : Nat) (h : ∀ c ∈ m, c.1 ≠ a) :
    m.read a = Memory.blank := by
  induction m with
  | nil => rfl
  | cons c m ih =>
    have hc := h c (by simp)
    rw [show c = (c.1, c.2) from rfl, Memory.read_cons, if_neg hc]
    exact ih fun d hd => h d (by simp [hd])

/-- A pair of a canonical memory is what its offset reads as. -/
theorem Memory.read_of_mem {m : Memory} (h : m.wf) {c : Host.Cell} (hc : c ∈ m) : m.read c.1 = c.2 := by
  induction m with
  | nil => simp at hc
  | cons d m ih =>
    obtain ⟨hs, hb⟩ := h
    rw [List.pairwise_cons] at hs
    rcases List.mem_cons.1 hc with rfl | hc
    · simp [Memory.read]
    · have : d.1 ≠ c.1 := by have := hs.1 c hc; omega
      rw [show d = (d.1, d.2) from rfl, Memory.read_cons, if_neg this]
      exact ih ⟨hs.2, fun e he => hb e (by simp [he])⟩ hc

/-- A write leaves every other offset alone. -/
theorem Memory.read_write_other (m : Memory) (a b : Nat) (v : Byte) (hab : a ≠ b) :
    (m.write a v).read b = m.read b := by
  induction m with
  | nil => by_cases hv : v = Memory.blank <;> simp [Memory.write, Memory.read, hv, hab]
  | cons c m ih =>
    obtain ⟨k, x⟩ := c
    by_cases hk : a < k
    · by_cases hv : v = Memory.blank <;> simp [Memory.write, Memory.read, hk, hv, hab]
    · by_cases he : k = a
      · subst he
        by_cases hv : v = Memory.blank <;> simp [Memory.write, Memory.read, hv, hab]
      · simp [Memory.write, Memory.read, hk, he, ih]

/-- A read after a write to the same offset gives the value written. -/
theorem Memory.read_write_same {m : Memory} (h : m.wf) (a : Nat) (v : Byte) : (m.write a v).read a = v := by
  induction m with
  | nil => by_cases hv : v = Memory.blank <;> simp [Memory.write, Memory.read, hv]
  | cons c m ih =>
    obtain ⟨k, x⟩ := c
    obtain ⟨hs, hb⟩ := h
    rw [List.pairwise_cons] at hs
    by_cases hk : a < k
    · by_cases hv : v = Memory.blank
      · simp only [Memory.write, hk, hv, if_true]
        refine Memory.read_of_not_listed _ _ fun d hd => ?_
        rcases List.mem_cons.1 hd with rfl | hd
        · exact fun h => by simp only at h; omega
        · have := hs.1 d hd; simp only at this; omega
      · simp [Memory.write, Memory.read, hk, hv]
    · by_cases he : k = a
      · subst he
        by_cases hv : v = Memory.blank
        · simp only [Memory.write, hk, hv, if_true, if_false]
          refine Memory.read_of_not_listed _ _ fun d hd => ?_
          have := hs.1 d hd; simp only at this; omega
        · simp [Memory.write, Memory.read, hv]
      · simp only [Memory.write, Memory.read, hk, he, if_false]
        exact ih ⟨hs.2, fun e hm => hb e (by simp [hm])⟩

theorem Memory.read_write {m : Memory} (h : m.wf) (a b : Nat) (v : Byte) :
    (m.write a v).read b = if a = b then v else m.read b := by
  by_cases hab : a = b
  · subst hab; simp [Memory.read_write_same h]
  · simp [hab, Memory.read_write_other]

/-- What a written memory lists: the pair written, or a pair of before. -/
theorem Memory.mem_write {m : Memory} {a : Nat} {v : Byte} {c : Host.Cell} (hc : c ∈ m.write a v) :
    (c = (a, v) ∧ v ≠ Memory.blank) ∨ c ∈ m := by
  induction m with
  | nil => by_cases hv : v = Memory.blank <;> simp_all [Memory.write]
  | cons d m ih =>
    obtain ⟨k, x⟩ := d
    by_cases hk : a < k
    · by_cases hv : v = Memory.blank
      · simp only [Memory.write, hk, hv, if_true] at hc; exact .inr hc
      · simp only [Memory.write, hk, hv, if_true, if_false] at hc
        rcases List.mem_cons.1 hc with rfl | hc
        · exact .inl ⟨rfl, hv⟩
        · exact .inr hc
    · by_cases he : k = a
      · subst he
        by_cases hv : v = Memory.blank
        · simp only [Memory.write, hv, if_true, lt_irrefl, if_false] at hc
          exact .inr (List.mem_cons_of_mem _ hc)
        · simp only [Memory.write, hv, if_true, lt_irrefl, if_false] at hc
          rcases List.mem_cons.1 hc with rfl | hc
          · exact .inl ⟨rfl, hv⟩
          · exact .inr (List.mem_cons_of_mem _ hc)
      · simp only [Memory.write, hk, he, if_false] at hc
        rcases List.mem_cons.1 hc with rfl | hc
        · exact .inr (by simp)
        · rcases ih hc with h | h
          · exact .inl h
          · exact .inr (List.mem_cons_of_mem _ h)

/-- A write keeps the canonical form. -/
theorem Memory.wf_write {m : Memory} (h : m.wf) (a : Nat) (v : Byte) : (m.write a v).wf := by
  refine ⟨?_, fun c hc => ?_⟩
  · induction m with
    | nil => by_cases hv : v = Memory.blank <;> simp [Memory.write, hv]
    | cons d m ih =>
      obtain ⟨k, x⟩ := d
      obtain ⟨hs, hb⟩ := h
      have hs' := List.pairwise_cons.1 hs
      by_cases hk : a < k
      · by_cases hv : v = Memory.blank
        · simpa [Memory.write, hk, hv] using hs
        · simp only [Memory.write, hk, hv, if_true, if_false]
          refine List.pairwise_cons.2 ⟨fun e he => ?_, hs⟩
          rcases List.mem_cons.1 he with rfl | he
          · exact hk
          · have := hs'.1 e he; simp only at this ⊢; omega
      · by_cases he : k = a
        · subst he
          by_cases hv : v = Memory.blank
          · simpa [Memory.write, hv] using hs'.2
          · simpa [Memory.write, hv] using List.pairwise_cons.2 ⟨hs'.1, hs'.2⟩
        · simp only [Memory.write, hk, he, if_false]
          refine List.pairwise_cons.2 ⟨fun e hm => ?_, ih ⟨hs'.2, fun e hm => hb e (by simp [hm])⟩⟩
          rcases Memory.mem_write hm with ⟨rfl, -⟩ | hm
          · simp only; omega
          · exact hs'.1 e hm
  · rcases Memory.mem_write hc with ⟨rfl, hv⟩ | hc
    · exact hv
    · exact h.2 c hc

/-! ### Strings of bytes -/

/-- Writing a string leaves the offsets outside it alone. -/
theorem Memory.read_writeBytes_outside (m : Memory) (a b : Nat) (bs : List Byte)
    (h : b < a ∨ a + bs.length ≤ b) : (m.writeBytes a bs).read b = m.read b := by
  induction bs generalizing m a with
  | nil => rfl
  | cons v bs ih =>
    simp only [List.length_cons] at h
    rw [Memory.writeBytes, ih (m.write a v) (a + 1) (by omega), Memory.read_write_other _ _ _ _ (by omega)]

/-- Writing a string keeps the canonical form. -/
theorem Memory.wf_writeBytes {m : Memory} (h : m.wf) (a : Nat) (bs : List Byte) : (m.writeBytes a bs).wf := by
  induction bs generalizing m a with
  | nil => exact h
  | cons v bs ih => exact ih (Memory.wf_write h a v) (a + 1)

/-- Inside the string each offset reads as the byte put there. -/
theorem Memory.read_writeBytes_inside {m : Memory} (h : m.wf) (a j : Nat) (bs : List Byte) (hj : j < bs.length) :
    (m.writeBytes a bs).read (a + j) = bs[j] := by
  induction bs generalizing m a j with
  | nil => simp at hj
  | cons v bs ih =>
    cases j with
    | zero =>
      rw [Memory.writeBytes, Memory.read_writeBytes_outside _ _ _ _ (by omega)]
      simpa using Memory.read_write_same h a v
    | succ j =>
      have := ih (Memory.wf_write h a v) (a + 1) j (by simpa using hj)
      rw [Memory.writeBytes, show a + (j + 1) = a + 1 + j by omega, this]
      simp

/-- What a written memory lists: a byte of the string at its place, or a pair of before. -/
theorem Memory.mem_writeBytes {m : Memory} {a : Nat} {bs : List Byte} {c : Host.Cell}
    (hc : c ∈ m.writeBytes a bs) : (a ≤ c.1 ∧ c.1 < a + bs.length) ∨ c ∈ m := by
  induction bs generalizing m a with
  | nil => exact .inr hc
  | cons v bs ih =>
    simp only [List.length_cons]
    rcases ih hc with h | h
    · exact .inl (by omega)
    · rcases Memory.mem_write h with ⟨rfl, -⟩ | h
      · exact .inl (by simp)
      · exact .inr h

@[simp] theorem Memory.length_readBytes (m : Memory) (a n : Nat) : (m.readBytes a n).length = n := by
  simp [Memory.readBytes]

theorem Memory.getElem_readBytes (m : Memory) (a n j : Nat) (h : j < (m.readBytes a n).length) :
    (m.readBytes a n)[j] = m.read (a + j) := by
  simp [Memory.readBytes]

/-- Reading a string just written gives it back. -/
theorem Memory.readBytes_writeBytes {m : Memory} (h : m.wf) (a : Nat) (bs : List Byte) :
    (m.writeBytes a bs).readBytes a bs.length = bs := by
  refine List.ext_getElem (by simp) fun j h1 h2 => ?_
  rw [Memory.getElem_readBytes, Memory.read_writeBytes_inside h a j bs h2]

/-- Reading a string elsewhere gives what it gave. -/
theorem Memory.readBytes_writeBytes_disjoint (m : Memory) (a b n : Nat) (bs : List Byte)
    (h : b + n ≤ a ∨ a + bs.length ≤ b) : (m.writeBytes a bs).readBytes b n = m.readBytes b n := by
  refine List.ext_getElem (by simp) fun j h1 h2 => ?_
  rw [Memory.getElem_readBytes, Memory.getElem_readBytes]
  rw [Memory.length_readBytes] at h2
  exact Memory.read_writeBytes_outside _ _ _ _ (by omega)

/-- Canonical memories in which every offset reads the same are equal. -/
theorem Memory.ext_of_read {m n : Memory} (hm : m.wf) (hn : n.wf) (h : ∀ a, m.read a = n.read a) : m = n := by
  have key : ∀ {p q : Memory}, p.wf → q.wf → (∀ a, p.read a = q.read a) → ∀ c ∈ p, c ∈ q := by
    intro p q hp hq hpq c hc
    by_contra hcq
    have hr : q.read c.1 = c.2 := by rw [← hpq, Memory.read_of_mem hp hc]
    by_cases hl : ∀ d ∈ q, d.1 ≠ c.1
    · rw [Memory.read_of_not_listed q c.1 hl] at hr
      exact hp.2 c hc hr.symm
    · push Not at hl
      obtain ⟨d, hd, he⟩ := hl
      have : q.read c.1 = d.2 := he ▸ Memory.read_of_mem hq hd
      exact hcq ((Prod.ext he (this.symm.trans hr) : d = c) ▸ hd)
  have nd : ∀ {p : Memory}, p.wf → p.Nodup := fun hp =>
    hp.1.imp fun {a b} hlt heq => by subst heq; omega
  have perm : m.Perm n :=
    (List.perm_ext_iff_of_nodup (nd hm) (nd hn)).2 fun c =>
      ⟨key hm hn h c, key hn hm (fun a => (h a).symm) c⟩
  exact perm.eq_of_pairwise (fun a b _ _ h1 h2 => by omega) hm.1 hn.1

@[simp] theorem Memory.wf_nil : Memory.wf ([] : Memory) := ⟨List.Pairwise.nil, by simp⟩

end Sys2Proof.Machine
end

