-- ==== Sys2Proof/Laws/State.lean ====
section
/-!
SUPPORT. What each named update of the state does to each field, true by definition: later proofs rewrite with
these and unfold no record update.
-/

namespace Sys2Proof.Machine

variable (s : State)

/-! ### `setErr` -/

@[simp] theorem State.setErr_err (c : Byte) : (s.setErr c).err = c := rfl
@[simp] theorem State.setErr_dropcnt (c : Byte) : (s.setErr c).dropcnt = s.dropcnt := rfl
@[simp] theorem State.setErr_ulen (c : Byte) : (s.setErr c).ulen = s.ulen := rfl
@[simp] theorem State.setErr_ubuf (c : Byte) : (s.setErr c).ubuf = s.ubuf := rfl
@[simp] theorem State.setErr_txhdr (c : Byte) : (s.setErr c).txhdr = s.txhdr := rfl
@[simp] theorem State.setErr_txlen (c : Byte) : (s.setErr c).txlen = s.txlen := rfl
@[simp] theorem State.setErr_dhdr (c : Byte) : (s.setErr c).dhdr = s.dhdr := rfl
@[simp] theorem State.setErr_dlen (c : Byte) : (s.setErr c).dlen = s.dlen := rfl
@[simp] theorem State.setErr_rxvalid (c : Byte) : (s.setErr c).rxvalid = s.rxvalid := rfl
@[simp] theorem State.setErr_rxhdr (c : Byte) : (s.setErr c).rxhdr = s.rxhdr := rfl
@[simp] theorem State.setErr_rxlen (c : Byte) : (s.setErr c).rxlen = s.rxlen := rfl
@[simp] theorem State.setErr_rate (c : Byte) : (s.setErr c).rate = s.rate := rfl
@[simp] theorem State.setErr_ts0 (c : Byte) : (s.setErr c).ts0 = s.ts0 := rfl
@[simp] theorem State.setErr_q64 (c : Byte) : (s.setErr c).q64 = s.q64 := rfl
@[simp] theorem State.setErr_qd (c : Byte) : (s.setErr c).qd = s.qd := rfl
@[simp] theorem State.setErr_qrest (c : Byte) : (s.setErr c).qrest = s.qrest := rfl
@[simp] theorem State.setErr_qmag (c : Byte) : (s.setErr c).qmag = s.qmag := rfl
@[simp] theorem State.setErr_qaxis (c : Byte) : (s.setErr c).qaxis = s.qaxis := rfl
@[simp] theorem State.setErr_xrest (c : Byte) : (s.setErr c).xrest = s.xrest := rfl
@[simp] theorem State.setErr_xmag (c : Byte) : (s.setErr c).xmag = s.xmag := rfl
@[simp] theorem State.setErr_xaxis (c : Byte) : (s.setErr c).xaxis = s.xaxis := rfl
@[simp] theorem State.setErr_gyr (c : Byte) : (s.setErr c).gyr = s.gyr := rfl
@[simp] theorem State.setErr_xq (c : Byte) : (s.setErr c).xq = s.xq := rfl
@[simp] theorem State.setErr_xts (c : Byte) : (s.setErr c).xts = s.xts := rfl
@[simp] theorem State.setErr_mem (c : Byte) : (s.setErr c).mem = s.mem := rfl
@[simp] theorem State.setErr_pending (c : Byte) : (s.setErr c).pending = s.pending := rfl
@[simp] theorem State.setErr_returned (c : Byte) : (s.setErr c).returned = s.returned := rfl

/-! ### `raise` -/

@[simp] theorem State.raise_err (e : ErrorCode) : (s.raise e).err = ErrorCode.code e := rfl
@[simp] theorem State.raise_dropcnt (e : ErrorCode) : (s.raise e).dropcnt = s.dropcnt := rfl
@[simp] theorem State.raise_ulen (e : ErrorCode) : (s.raise e).ulen = s.ulen := rfl
@[simp] theorem State.raise_ubuf (e : ErrorCode) : (s.raise e).ubuf = s.ubuf := rfl
@[simp] theorem State.raise_txhdr (e : ErrorCode) : (s.raise e).txhdr = s.txhdr := rfl
@[simp] theorem State.raise_txlen (e : ErrorCode) : (s.raise e).txlen = s.txlen := rfl
@[simp] theorem State.raise_dhdr (e : ErrorCode) : (s.raise e).dhdr = s.dhdr := rfl
@[simp] theorem State.raise_dlen (e : ErrorCode) : (s.raise e).dlen = s.dlen := rfl
@[simp] theorem State.raise_rxvalid (e : ErrorCode) : (s.raise e).rxvalid = s.rxvalid := rfl
@[simp] theorem State.raise_rxhdr (e : ErrorCode) : (s.raise e).rxhdr = s.rxhdr := rfl
@[simp] theorem State.raise_rxlen (e : ErrorCode) : (s.raise e).rxlen = s.rxlen := rfl
@[simp] theorem State.raise_rate (e : ErrorCode) : (s.raise e).rate = s.rate := rfl
@[simp] theorem State.raise_ts0 (e : ErrorCode) : (s.raise e).ts0 = s.ts0 := rfl
@[simp] theorem State.raise_q64 (e : ErrorCode) : (s.raise e).q64 = s.q64 := rfl
@[simp] theorem State.raise_qd (e : ErrorCode) : (s.raise e).qd = s.qd := rfl
@[simp] theorem State.raise_qrest (e : ErrorCode) : (s.raise e).qrest = s.qrest := rfl
@[simp] theorem State.raise_qmag (e : ErrorCode) : (s.raise e).qmag = s.qmag := rfl
@[simp] theorem State.raise_qaxis (e : ErrorCode) : (s.raise e).qaxis = s.qaxis := rfl
@[simp] theorem State.raise_xrest (e : ErrorCode) : (s.raise e).xrest = s.xrest := rfl
@[simp] theorem State.raise_xmag (e : ErrorCode) : (s.raise e).xmag = s.xmag := rfl
@[simp] theorem State.raise_xaxis (e : ErrorCode) : (s.raise e).xaxis = s.xaxis := rfl
@[simp] theorem State.raise_gyr (e : ErrorCode) : (s.raise e).gyr = s.gyr := rfl
@[simp] theorem State.raise_xq (e : ErrorCode) : (s.raise e).xq = s.xq := rfl
@[simp] theorem State.raise_xts (e : ErrorCode) : (s.raise e).xts = s.xts := rfl
@[simp] theorem State.raise_mem (e : ErrorCode) : (s.raise e).mem = s.mem := rfl
@[simp] theorem State.raise_pending (e : ErrorCode) : (s.raise e).pending = s.pending := rfl
@[simp] theorem State.raise_returned (e : ErrorCode) : (s.raise e).returned = s.returned := rfl

/-! ### `complete` -/

@[simp] theorem State.complete_err : (s.complete).err = 0#8 := rfl
@[simp] theorem State.complete_dropcnt : (s.complete).dropcnt = s.dropcnt := rfl
@[simp] theorem State.complete_ulen : (s.complete).ulen = s.ulen := rfl
@[simp] theorem State.complete_ubuf : (s.complete).ubuf = s.ubuf := rfl
@[simp] theorem State.complete_txhdr : (s.complete).txhdr = s.txhdr := rfl
@[simp] theorem State.complete_txlen : (s.complete).txlen = s.txlen := rfl
@[simp] theorem State.complete_dhdr : (s.complete).dhdr = s.dhdr := rfl
@[simp] theorem State.complete_dlen : (s.complete).dlen = s.dlen := rfl
@[simp] theorem State.complete_rxvalid : (s.complete).rxvalid = s.rxvalid := rfl
@[simp] theorem State.complete_rxhdr : (s.complete).rxhdr = s.rxhdr := rfl
@[simp] theorem State.complete_rxlen : (s.complete).rxlen = s.rxlen := rfl
@[simp] theorem State.complete_rate : (s.complete).rate = s.rate := rfl
@[simp] theorem State.complete_ts0 : (s.complete).ts0 = s.ts0 := rfl
@[simp] theorem State.complete_q64 : (s.complete).q64 = s.q64 := rfl
@[simp] theorem State.complete_qd : (s.complete).qd = s.qd := rfl
@[simp] theorem State.complete_qrest : (s.complete).qrest = s.qrest := rfl
@[simp] theorem State.complete_qmag : (s.complete).qmag = s.qmag := rfl
@[simp] theorem State.complete_qaxis : (s.complete).qaxis = s.qaxis := rfl
@[simp] theorem State.complete_xrest : (s.complete).xrest = s.xrest := rfl
@[simp] theorem State.complete_xmag : (s.complete).xmag = s.xmag := rfl
@[simp] theorem State.complete_xaxis : (s.complete).xaxis = s.xaxis := rfl
@[simp] theorem State.complete_gyr : (s.complete).gyr = s.gyr := rfl
@[simp] theorem State.complete_xq : (s.complete).xq = s.xq := rfl
@[simp] theorem State.complete_xts : (s.complete).xts = s.xts := rfl
@[simp] theorem State.complete_mem : (s.complete).mem = s.mem := rfl
@[simp] theorem State.complete_pending : (s.complete).pending = s.pending := rfl
@[simp] theorem State.complete_returned : (s.complete).returned = s.returned := rfl

/-! ### `taking` -/

@[simp] theorem State.taking_err (rest : List Event) : (s.taking rest).err = s.err := rfl
@[simp] theorem State.taking_dropcnt (rest : List Event) : (s.taking rest).dropcnt = s.dropcnt := rfl
@[simp] theorem State.taking_ulen (rest : List Event) : (s.taking rest).ulen = s.ulen := rfl
@[simp] theorem State.taking_ubuf (rest : List Event) : (s.taking rest).ubuf = s.ubuf := rfl
@[simp] theorem State.taking_txhdr (rest : List Event) : (s.taking rest).txhdr = s.txhdr := rfl
@[simp] theorem State.taking_txlen (rest : List Event) : (s.taking rest).txlen = s.txlen := rfl
@[simp] theorem State.taking_dhdr (rest : List Event) : (s.taking rest).dhdr = s.dhdr := rfl
@[simp] theorem State.taking_dlen (rest : List Event) : (s.taking rest).dlen = s.dlen := rfl
@[simp] theorem State.taking_rxvalid (rest : List Event) : (s.taking rest).rxvalid = s.rxvalid := rfl
@[simp] theorem State.taking_rxhdr (rest : List Event) : (s.taking rest).rxhdr = s.rxhdr := rfl
@[simp] theorem State.taking_rxlen (rest : List Event) : (s.taking rest).rxlen = s.rxlen := rfl
@[simp] theorem State.taking_rate (rest : List Event) : (s.taking rest).rate = s.rate := rfl
@[simp] theorem State.taking_ts0 (rest : List Event) : (s.taking rest).ts0 = s.ts0 := rfl
@[simp] theorem State.taking_q64 (rest : List Event) : (s.taking rest).q64 = s.q64 := rfl
@[simp] theorem State.taking_qd (rest : List Event) : (s.taking rest).qd = s.qd := rfl
@[simp] theorem State.taking_qrest (rest : List Event) : (s.taking rest).qrest = s.qrest := rfl
@[simp] theorem State.taking_qmag (rest : List Event) : (s.taking rest).qmag = s.qmag := rfl
@[simp] theorem State.taking_qaxis (rest : List Event) : (s.taking rest).qaxis = s.qaxis := rfl
@[simp] theorem State.taking_xrest (rest : List Event) : (s.taking rest).xrest = s.xrest := rfl
@[simp] theorem State.taking_xmag (rest : List Event) : (s.taking rest).xmag = s.xmag := rfl
@[simp] theorem State.taking_xaxis (rest : List Event) : (s.taking rest).xaxis = s.xaxis := rfl
@[simp] theorem State.taking_gyr (rest : List Event) : (s.taking rest).gyr = s.gyr := rfl
@[simp] theorem State.taking_xq (rest : List Event) : (s.taking rest).xq = s.xq := rfl
@[simp] theorem State.taking_xts (rest : List Event) : (s.taking rest).xts = s.xts := rfl
@[simp] theorem State.taking_mem (rest : List Event) : (s.taking rest).mem = s.mem := rfl
@[simp] theorem State.taking_pending (rest : List Event) : (s.taking rest).pending = rest := rfl
@[simp] theorem State.taking_returned (rest : List Event) : (s.taking rest).returned = none := rfl

/-! ### `appendByte` -/

@[simp] theorem appendByte_err (b : Byte) : (appendByte b s).err = s.err := rfl
@[simp] theorem appendByte_dropcnt (b : Byte) : (appendByte b s).dropcnt = s.dropcnt := rfl
@[simp] theorem appendByte_ulen (b : Byte) : (appendByte b s).ulen = s.ulen + 1#9 := rfl
@[simp] theorem appendByte_ubuf (b : Byte) : (appendByte b s).ubuf = s.ubuf.setIfInBounds s.ulen.toNat b := rfl
@[simp] theorem appendByte_txhdr (b : Byte) : (appendByte b s).txhdr = s.txhdr := rfl
@[simp] theorem appendByte_txlen (b : Byte) : (appendByte b s).txlen = s.txlen := rfl
@[simp] theorem appendByte_dhdr (b : Byte) : (appendByte b s).dhdr = s.dhdr := rfl
@[simp] theorem appendByte_dlen (b : Byte) : (appendByte b s).dlen = s.dlen := rfl
@[simp] theorem appendByte_rxvalid (b : Byte) : (appendByte b s).rxvalid = s.rxvalid := rfl
@[simp] theorem appendByte_rxhdr (b : Byte) : (appendByte b s).rxhdr = s.rxhdr := rfl
@[simp] theorem appendByte_rxlen (b : Byte) : (appendByte b s).rxlen = s.rxlen := rfl
@[simp] theorem appendByte_rate (b : Byte) : (appendByte b s).rate = s.rate := rfl
@[simp] theorem appendByte_ts0 (b : Byte) : (appendByte b s).ts0 = s.ts0 := rfl
@[simp] theorem appendByte_q64 (b : Byte) : (appendByte b s).q64 = s.q64 := rfl
@[simp] theorem appendByte_qd (b : Byte) : (appendByte b s).qd = s.qd := rfl
@[simp] theorem appendByte_qrest (b : Byte) : (appendByte b s).qrest = s.qrest := rfl
@[simp] theorem appendByte_qmag (b : Byte) : (appendByte b s).qmag = s.qmag := rfl
@[simp] theorem appendByte_qaxis (b : Byte) : (appendByte b s).qaxis = s.qaxis := rfl
@[simp] theorem appendByte_xrest (b : Byte) : (appendByte b s).xrest = s.xrest := rfl
@[simp] theorem appendByte_xmag (b : Byte) : (appendByte b s).xmag = s.xmag := rfl
@[simp] theorem appendByte_xaxis (b : Byte) : (appendByte b s).xaxis = s.xaxis := rfl
@[simp] theorem appendByte_gyr (b : Byte) : (appendByte b s).gyr = s.gyr := rfl
@[simp] theorem appendByte_xq (b : Byte) : (appendByte b s).xq = s.xq := rfl
@[simp] theorem appendByte_xts (b : Byte) : (appendByte b s).xts = s.xts := rfl
@[simp] theorem appendByte_mem (b : Byte) : (appendByte b s).mem = s.mem := rfl
@[simp] theorem appendByte_pending (b : Byte) : (appendByte b s).pending = s.pending := rfl
@[simp] theorem appendByte_returned (b : Byte) : (appendByte b s).returned = s.returned := rfl

/-! ### `discardOne` -/

@[simp] theorem discardOne_err : (discardOne s).err = s.err := rfl
@[simp] theorem discardOne_dropcnt : (discardOne s).dropcnt = s.dropcnt + 1#32 := rfl
@[simp] theorem discardOne_ulen : (discardOne s).ulen = s.ulen - 1#9 := rfl
@[simp] theorem discardOne_ubuf : (discardOne s).ubuf = shiftDown s.ubuf s.ulen.toNat := rfl
@[simp] theorem discardOne_txhdr : (discardOne s).txhdr = s.txhdr := rfl
@[simp] theorem discardOne_txlen : (discardOne s).txlen = s.txlen := rfl
@[simp] theorem discardOne_dhdr : (discardOne s).dhdr = s.dhdr := rfl
@[simp] theorem discardOne_dlen : (discardOne s).dlen = s.dlen := rfl
@[simp] theorem discardOne_rxvalid : (discardOne s).rxvalid = s.rxvalid := rfl
@[simp] theorem discardOne_rxhdr : (discardOne s).rxhdr = s.rxhdr := rfl
@[simp] theorem discardOne_rxlen : (discardOne s).rxlen = s.rxlen := rfl
@[simp] theorem discardOne_rate : (discardOne s).rate = s.rate := rfl
@[simp] theorem discardOne_ts0 : (discardOne s).ts0 = s.ts0 := rfl
@[simp] theorem discardOne_q64 : (discardOne s).q64 = s.q64 := rfl
@[simp] theorem discardOne_qd : (discardOne s).qd = s.qd := rfl
@[simp] theorem discardOne_qrest : (discardOne s).qrest = s.qrest := rfl
@[simp] theorem discardOne_qmag : (discardOne s).qmag = s.qmag := rfl
@[simp] theorem discardOne_qaxis : (discardOne s).qaxis = s.qaxis := rfl
@[simp] theorem discardOne_xrest : (discardOne s).xrest = s.xrest := rfl
@[simp] theorem discardOne_xmag : (discardOne s).xmag = s.xmag := rfl
@[simp] theorem discardOne_xaxis : (discardOne s).xaxis = s.xaxis := rfl
@[simp] theorem discardOne_gyr : (discardOne s).gyr = s.gyr := rfl
@[simp] theorem discardOne_xq : (discardOne s).xq = s.xq := rfl
@[simp] theorem discardOne_xts : (discardOne s).xts = s.xts := rfl
@[simp] theorem discardOne_mem : (discardOne s).mem = s.mem := rfl
@[simp] theorem discardOne_pending : (discardOne s).pending = s.pending := rfl
@[simp] theorem discardOne_returned : (discardOne s).returned = s.returned := rfl

/-! ### `emitFrame` -/

@[simp] theorem emitFrame_err : (emitFrame s).err = s.err := rfl
@[simp] theorem emitFrame_dropcnt : (emitFrame s).dropcnt = s.dropcnt := rfl
@[simp] theorem emitFrame_ulen : (emitFrame s).ulen = 0#9 := rfl
@[simp] theorem emitFrame_ubuf : (emitFrame s).ubuf = s.ubuf := rfl
@[simp] theorem emitFrame_txhdr : (emitFrame s).txhdr = s.txhdr := rfl
@[simp] theorem emitFrame_txlen : (emitFrame s).txlen = s.txlen := rfl
@[simp] theorem emitFrame_dhdr : (emitFrame s).dhdr = s.dhdr := rfl
@[simp] theorem emitFrame_dlen : (emitFrame s).dlen = s.dlen := rfl
@[simp] theorem emitFrame_rxvalid : (emitFrame s).rxvalid = true := rfl
@[simp] theorem emitFrame_rxhdr : (emitFrame s).rxhdr = headerField s.ubuf.toList := rfl
@[simp] theorem emitFrame_rxlen : (emitFrame s).rxlen = byteAt s.ubuf.toList 5 := rfl
@[simp] theorem emitFrame_rate : (emitFrame s).rate = s.rate := rfl
@[simp] theorem emitFrame_ts0 : (emitFrame s).ts0 = s.ts0 := rfl
@[simp] theorem emitFrame_q64 : (emitFrame s).q64 = s.q64 := rfl
@[simp] theorem emitFrame_qd : (emitFrame s).qd = s.qd := rfl
@[simp] theorem emitFrame_qrest : (emitFrame s).qrest = s.qrest := rfl
@[simp] theorem emitFrame_qmag : (emitFrame s).qmag = s.qmag := rfl
@[simp] theorem emitFrame_qaxis : (emitFrame s).qaxis = s.qaxis := rfl
@[simp] theorem emitFrame_xrest : (emitFrame s).xrest = s.xrest := rfl
@[simp] theorem emitFrame_xmag : (emitFrame s).xmag = s.xmag := rfl
@[simp] theorem emitFrame_xaxis : (emitFrame s).xaxis = s.xaxis := rfl
@[simp] theorem emitFrame_gyr : (emitFrame s).gyr = s.gyr := rfl
@[simp] theorem emitFrame_xq : (emitFrame s).xq = s.xq := rfl
@[simp] theorem emitFrame_xts : (emitFrame s).xts = s.xts := rfl
@[simp] theorem emitFrame_mem : (emitFrame s).mem = s.mem.writeBytes (Buf.base .rxpay) (slice s.ubuf.toList 8 244) := rfl
@[simp] theorem emitFrame_pending : (emitFrame s).pending = s.pending := rfl
@[simp] theorem emitFrame_returned : (emitFrame s).returned = s.returned := rfl

/-! ### `resetElements` -/

@[simp] theorem resetElements_err : (resetElements s).err = State.reset.err := rfl
@[simp] theorem resetElements_dropcnt : (resetElements s).dropcnt = State.reset.dropcnt := rfl
@[simp] theorem resetElements_ulen : (resetElements s).ulen = State.reset.ulen := rfl
@[simp] theorem resetElements_ubuf : (resetElements s).ubuf = State.reset.ubuf := rfl
@[simp] theorem resetElements_txhdr : (resetElements s).txhdr = State.reset.txhdr := rfl
@[simp] theorem resetElements_txlen : (resetElements s).txlen = State.reset.txlen := rfl
@[simp] theorem resetElements_dhdr : (resetElements s).dhdr = State.reset.dhdr := rfl
@[simp] theorem resetElements_dlen : (resetElements s).dlen = State.reset.dlen := rfl
@[simp] theorem resetElements_rxvalid : (resetElements s).rxvalid = State.reset.rxvalid := rfl
@[simp] theorem resetElements_rxhdr : (resetElements s).rxhdr = State.reset.rxhdr := rfl
@[simp] theorem resetElements_rxlen : (resetElements s).rxlen = State.reset.rxlen := rfl
@[simp] theorem resetElements_rate : (resetElements s).rate = State.reset.rate := rfl
@[simp] theorem resetElements_ts0 : (resetElements s).ts0 = State.reset.ts0 := rfl
@[simp] theorem resetElements_q64 : (resetElements s).q64 = State.reset.q64 := rfl
@[simp] theorem resetElements_qd : (resetElements s).qd = State.reset.qd := rfl
@[simp] theorem resetElements_qrest : (resetElements s).qrest = State.reset.qrest := rfl
@[simp] theorem resetElements_qmag : (resetElements s).qmag = State.reset.qmag := rfl
@[simp] theorem resetElements_qaxis : (resetElements s).qaxis = State.reset.qaxis := rfl
@[simp] theorem resetElements_xrest : (resetElements s).xrest = State.reset.xrest := rfl
@[simp] theorem resetElements_xmag : (resetElements s).xmag = State.reset.xmag := rfl
@[simp] theorem resetElements_xaxis : (resetElements s).xaxis = State.reset.xaxis := rfl
@[simp] theorem resetElements_gyr : (resetElements s).gyr = State.reset.gyr := rfl
@[simp] theorem resetElements_xq : (resetElements s).xq = State.reset.xq := rfl
@[simp] theorem resetElements_xts : (resetElements s).xts = State.reset.xts := rfl
@[simp] theorem resetElements_mem : (resetElements s).mem = State.reset.mem := rfl
@[simp] theorem resetElements_pending : (resetElements s).pending = s.pending := rfl
@[simp] theorem resetElements_returned : (resetElements s).returned = s.returned := rfl

end Sys2Proof.Machine
end

