-- ==== Sys2Proof/Laws/Framer.lean ====
section
/-!
SUPPORT. What the framer's parts do, said once: lengths, when a frame passes its check, the buffered bytes
after an append and after a discard, and the four things `FEED` can do.
-/

namespace Sys2Proof.Machine

/-! ### Lengths -/

@[simp] theorem length_le16 (v : Half) : (le16 v).length = 2 := rfl

@[simp] theorem length_le32 (v : Word) : (le32 v).length = 4 := rfl

@[simp] theorem length_slice (bs : List Byte) (a b : Nat) : (slice bs a b).length = min (b - a) (bs.length - a) := by
  simp [slice]

@[simp] theorem State.length_payload (s : State) : s.payload.length = s.txlen.toNat := by
  simp [State.payload, State.bufBytes]

@[simp] theorem State.length_frame (s : State) : s.frame.length = 244 := by
  simp [State.frame, State.bufBytes]

theorem length_frameImage (hdr : Half) (size : Byte) (payload : List Byte) (h : payload.length ≤ 236) :
    (frameImage hdr size payload).length = 244 := by
  simp [frameImage]; omega

theorem State.getElem_frame (s : State) (j : Nat) (h : j < s.frame.length) : s.frame[j] = s.mem.read (0x300 + j) := by
  simp only [State.frame, State.bufBytes, Buf.base, Memory.getElem_readBytes]

theorem State.length_buffered (s : State) (h : s.ulen.toNat ≤ 244) : s.buffered.length = s.ulen.toNat := by
  simp [State.buffered, h]

/-! ### The frame check -/

/-- A frame passes exactly when it passes the three tests. -/
theorem frameCheck_eq_ok_iff (f : List Byte) :
    frameCheck f = .ok ↔
      byteAt f 0 = Config.startByte ∧ frameSize f ≤ Config.payloadMax ∧ crc32 (crcRange f) = crcField f := by
  unfold frameCheck
  split
  · next h => simp only [reduceCtorEq, false_iff]; exact fun hc => h hc.1
  · next h =>
    split
    · next h2 => simp only [reduceCtorEq, false_iff]; exact fun hc => absurd hc.2.1 (by omega)
    · next h2 =>
      split
      · next h3 => simp only [reduceCtorEq, false_iff]; exact fun hc => h3 hc.2.2
      · next h3 => simp only [true_iff]; exact ⟨not_not.1 h, by omega, not_not.1 h3⟩

/-! ### The unpacker buffer -/

theorem getElem_shiftDown (u : Vector Byte 244) (n j : Nat) (h : j < 244) (hn : n ≤ 244) :
    (shiftDown u n)[j] = if h' : j + 1 < n then u[j + 1]'(by omega) else u[j] := by
  by_cases h' : j + 1 < n
  · have : j + 1 < 244 := by omega
    simp [shiftDown, h', List.getD, this]
  · simp [shiftDown, h']

/-- An append adds its byte behind the buffered ones. -/
theorem buffered_appendByte (s : State) (b : Byte) (h : s.ulen.toNat ≤ 243) :
    (appendByte b s).buffered = s.buffered ++ [b] := by
  have hu : (s.ulen + 1#9).toNat = s.ulen.toNat + 1 := by
    have := s.ulen.isLt; simp [BitVec.toNat_add]; omega
  refine List.ext_getElem (by simp [State.buffered, hu]; omega) fun j h1 h2 => ?_
  simp only [State.buffered, appendByte_ubuf, appendByte_ulen, hu, List.length_take, List.length_append] at h1 h2 ⊢
  simp only [List.getElem_take, Vector.getElem_toList, Vector.getElem_setIfInBounds, List.getElem_append,
    List.length_take, Vector.length_toList, List.getElem_singleton] at h1 h2 ⊢
  have : j < 244 := by simp at h1; omega
  by_cases hj : s.ulen.toNat = j
  · simp [hj]
  · have : j < s.ulen.toNat := by simp at h2; omega
    simp [hj, this]; omega

/-- A discard takes the oldest buffered byte. -/
theorem buffered_discardOne (s : State) (h1 : 1 ≤ s.ulen.toNat) (h2 : s.ulen.toNat ≤ 244) :
    (discardOne s).buffered = s.buffered.tail := by
  have hu : (s.ulen - 1#9).toNat = s.ulen.toNat - 1 := by
    have := s.ulen.isLt; simp [BitVec.toNat_sub]; omega
  refine List.ext_getElem (by simp [State.buffered, hu]; omega) fun j g1 g2 => ?_
  simp only [State.buffered, discardOne_ubuf, discardOne_ulen, hu, List.length_take, Vector.length_toList,
    List.getElem_take, Vector.getElem_toList, List.getElem_tail, List.length_tail] at g1 g2 ⊢
  rw [getElem_shiftDown _ _ _ (by omega) h2, dif_pos (by omega)]

/-- A full buffer is the whole of `UBUF`. -/
theorem buffered_of_full (s : State) (h : s.ulen.toNat = 244) : s.buffered = s.ubuf.toList := by
  simp [State.buffered, h]

/-! ### What the loop of `FEED` does -/

theorem unpackLoop_below (n : Nat) (s : State) (h : s.ulen.toNat < 244) : unpackLoop n s = s := by
  cases n <;> simp [unpackLoop, h]

theorem unpackLoop_emits (n : Nat) (s : State) (h : s.ulen.toNat = 244)
    (hc : frameCheck s.ubuf.toList = .ok) : unpackLoop (n + 1) s = emitFrame s := by
  simp [unpackLoop, h, hc]

theorem unpackLoop_discards (n : Nat) (s : State) (h : s.ulen.toNat = 244)
    (hc : frameCheck s.ubuf.toList ≠ .ok) : unpackLoop (n + 1) s = discardOne s := by
  have hd : (discardOne s).ulen.toNat < 244 := by simp [BitVec.toNat_sub, h]
  rw [unpackLoop, if_neg (by simp [h])]
  split
  · next h => exact absurd h hc
  all_goals exact unpackLoop_below _ _ hd

/-- With a frame waiting, `FEED` errs. -/
theorem feed_pending (b : Byte) (s : State) (h : s.rxvalid = true) : feed b s = s.raise .rxPending := by
  simp [feed, h]

/-- With fewer than 243 bytes buffered, `FEED` only appends. -/
theorem feed_appends (b : Byte) (s : State) (h : s.rxvalid = false) (hu : s.ulen.toNat < 243) :
    feed b s = (appendByte b s).complete := by
  rw [feed, if_neg (by simp [h]), unpackLoop_below]
  simp [BitVec.toNat_add]; omega

theorem ulen_appendByte_full (b : Byte) (s : State) (hu : s.ulen.toNat = 243) :
    (appendByte b s).ulen.toNat = 244 := by
  simp [BitVec.toNat_add, hu]

/-- With 243 bytes buffered and a byte that completes no valid frame, `FEED` discards one. -/
theorem feed_discards (b : Byte) (s : State) (h : s.rxvalid = false) (hu : s.ulen.toNat = 243)
    (hc : frameCheck (s.buffered ++ [b]) ≠ .ok) : feed b s = (discardOne (appendByte b s)).complete := by
  rw [← buffered_appendByte s b (by omega), buffered_of_full _ (ulen_appendByte_full b s hu)] at hc
  rw [feed, if_neg (by simp [h]), unpackLoop_discards _ _ (ulen_appendByte_full b s hu) hc]

/-- With 243 bytes buffered and the last byte of a valid frame, `FEED` emits it. -/
theorem feed_emits (b : Byte) (s : State) (h : s.rxvalid = false) (hu : s.ulen.toNat = 243)
    (hc : frameCheck (s.buffered ++ [b]) = .ok) : feed b s = (emitFrame (appendByte b s)).complete := by
  rw [← buffered_appendByte s b (by omega), buffered_of_full _ (ulen_appendByte_full b s hu)] at hc
  rw [feed, if_neg (by simp [h]), unpackLoop_emits _ _ (ulen_appendByte_full b s hu) hc]

/-- Everything `FEED` can do in a state that a run reaches. -/
theorem feed_cases (b : Byte) (s : State) (hu : s.ulen.toNat ≤ 243) :
    (s.rxvalid = true ∧ feed b s = s.raise .rxPending) ∨
    (s.rxvalid = false ∧ s.ulen.toNat < 243 ∧ feed b s = (appendByte b s).complete) ∨
    (s.rxvalid = false ∧ s.ulen.toNat = 243 ∧ frameCheck (s.buffered ++ [b]) ≠ .ok ∧
      feed b s = (discardOne (appendByte b s)).complete) ∨
    (s.rxvalid = false ∧ s.ulen.toNat = 243 ∧ frameCheck (s.buffered ++ [b]) = .ok ∧
      feed b s = (emitFrame (appendByte b s)).complete) := by
  cases hv : s.rxvalid with
  | true => exact .inl ⟨rfl, feed_pending b s hv⟩
  | false =>
    by_cases h : s.ulen.toNat < 243
    · exact .inr (.inl ⟨rfl, h, feed_appends b s hv h⟩)
    · have h : s.ulen.toNat = 243 := by omega
      by_cases hc : frameCheck (s.buffered ++ [b]) = .ok
      · exact .inr (.inr (.inr ⟨rfl, h, hc, feed_emits b s hv h hc⟩))
      · exact .inr (.inr (.inl ⟨rfl, h, hc, feed_discards b s hv h hc⟩))

/-- Everything `FDEC` can do: one error, and then only `ERR` changes; or a decoded frame. -/
theorem fdec_cases (s : State) :
    (∃ e, frameCheck s.frame ≠ .ok ∧ fdec s = s.raise e) ∨
    (frameCheck s.frame = .ok ∧
      fdec s = { s with dhdr := headerField s.frame, dlen := byteAt s.frame 5 }.complete) := by
  unfold fdec
  split <;> simp_all

/-- Everything `FENC` can do. -/
theorem fenc_cases (s : State) :
    (236 < s.txlen.toNat ∧ fenc s = s.raise .badPayloadSize) ∨
    (s.txlen.toNat ≤ 236 ∧
      fenc s = { s with mem := s.mem.writeBytes 0x300 (frameImage s.txhdr s.txlen s.payload) }.complete) := by
  by_cases h : s.txlen.toNat > 236
  · exact .inl ⟨h, by simp [fenc, h]⟩
  · exact .inr ⟨by omega, by simp [fenc, h, Buf.base]⟩

end Sys2Proof.Machine
end

