-- ==== Sys2Proof/Laws/Operands.lean ====
section
/-!
SUPPORT. The address map: a word access at a slot's own offset selects that slot, and the buffers lie where
rule R45 puts them.
-/

namespace Sys2Proof.Machine

-- Each kernel evaluation waits for the theorems before it; in turn, no thread stands idle.
set_option Elab.async false

/-- The offsets of rule R24 and the map back agree on every slot. -/
theorem wordAccess_offset (w : WordSlot) : wordAccess (WordSlot.offset w) = .ok w := by
  cases w with
  | reg r =>
    cases r with
    | qd c => revert c; decide +kernel
    | gyr i a => revert i a; decide +kernel
    | xq i c => revert i c; decide +kernel
    | _ => decide +kernel
  | lo r =>
    cases r with
    | xts i => revert i; decide +kernel
    | _ => decide +kernel
  | hi r =>
    cases r with
    | xts i => revert i; decide +kernel
    | _ => decide +kernel

/-- Beyond the address space every offset is unmapped. -/
theorem regionAt_beyond (off : Nat) (h : 0x500 ≤ off) : regionAt off = .unmapped := by
  simp (disch := omega) only [regionAt, if_neg]

/-- A slot that a word access selects stands at that offset. -/
theorem offset_of_wordAccess (off : Nat) (w : WordSlot) (h : wordAccess off = .ok w) : WordSlot.offset w = off := by
  have below : ∀ o : Fin 0x500, ∀ v, wordAccess o.val = .ok v → WordSlot.offset v = o.val := by
    have slots : ∀ o : Fin 0x500, (match wordAccess o.val with
        | .ok v => decide (WordSlot.offset v = o.val) | .error _ => true) = true := by decide +kernel
    intro o v hv
    have := slots o
    simpa [hv] using this
  by_cases hb : off < 0x500
  · exact below ⟨off, hb⟩ w h
  · simp [wordAccess, regionAt_beyond off (by omega)] at h

/-- The byte regions are exactly the buffers' own offsets. -/
theorem regionAt_eq_bytes_iff (off : Nat) (b : Buf) :
    regionAt off = .bytes b ↔ Buf.base b ≤ off ∧ off < Buf.base b + b.indexBound := by
  have below : ∀ o : Fin 0x500, ∀ b ∈ [Buf.txpay, Buf.fbuf, Buf.rxpay],
      (regionAt o.val = .bytes b ↔ Buf.base b ≤ o.val ∧ o.val < Buf.base b + b.indexBound) := by decide +kernel
  by_cases hb : off < 0x500
  · exact below ⟨off, hb⟩ b (by cases b <;> simp)
  · rw [regionAt_beyond off (by omega)]
    cases b <;> simp [Buf.base, Buf.indexBound] <;> omega

/-- A bit of a 64-bit word made of two halves. -/
theorem getLsbD_halves (hi lo : Word) (i : Nat) :
    BitVec.getLsbD (hi ++ lo : DWord) i = if i < 32 then lo.getLsbD i else hi.getLsbD (i - 32) :=
  BitVec.getLsbD_append.trans (by split <;> simp_all)

/-- Changing one half of a 64-bit register leaves the other half. -/
@[simp] theorem loHalf_withLo (v : DWord) (w : Word) : loHalf (withLo v w) = w := by
  refine BitVec.eq_of_getLsbD_eq fun i hi => ?_
  rw [loHalf, withLo, BitVec.getLsbD_extractLsb', getLsbD_halves]; simp [hi]

@[simp] theorem hiHalf_withLo (v : DWord) (w : Word) : hiHalf (withLo v w) = hiHalf v := by
  refine BitVec.eq_of_getLsbD_eq fun i hi => ?_
  rw [hiHalf, withLo, BitVec.getLsbD_extractLsb', getLsbD_halves]; simp [hi]

@[simp] theorem hiHalf_withHi (v : DWord) (w : Word) : hiHalf (withHi v w) = w := by
  refine BitVec.eq_of_getLsbD_eq fun i hi => ?_
  rw [hiHalf, withHi, BitVec.getLsbD_extractLsb', getLsbD_halves]; simp [hi]

@[simp] theorem loHalf_withHi (v : DWord) (w : Word) : loHalf (withHi v w) = loHalf v := by
  refine BitVec.eq_of_getLsbD_eq fun i hi => ?_
  rw [loHalf, withHi, BitVec.getLsbD_extractLsb', getLsbD_halves]; simp [hi, loHalf]

end Sys2Proof.Machine
end

