-- ==== Sys2Proof/Laws/PerInstr.lean ====
section
/-!
SUPPORT. What is proved per command, one lemma for each constructor. Family `MatchesRow`: the command word is
accepted by a row of the opcode map of rule R62, and that row stands for the command.
-/

namespace Sys2Proof.Laws

-- Each kernel evaluation waits for the theorems before it; in turn, no thread stands idle.
set_option Elab.async false

/-- The word of the command matches a row, and the row with that word's `IMM8` is the command. -/
def MatchesRow.Statement (i : Instr) : Prop :=
  ∃ r ∈ opcodeMap, r.accepts (encodeWord i) = true ∧ r.instr (imm8 (encodeWord i)) = i

theorem MatchesRow.reset : MatchesRow.Statement .reset :=
  ⟨⟨0x00000001#32, 0xFFFFFFFF#32, fun _ => .reset⟩, by simp [opcodeMap], by decide, rfl⟩

theorem MatchesRow.fenc : MatchesRow.Statement .fenc :=
  ⟨⟨0x00000010#32, 0xFFFFFFFF#32, fun _ => .fenc⟩, by simp [opcodeMap], by decide, rfl⟩

theorem MatchesRow.fdec : MatchesRow.Statement .fdec :=
  ⟨⟨0x00000011#32, 0xFFFFFFFF#32, fun _ => .fdec⟩, by simp [opcodeMap], by decide, rfl⟩

theorem MatchesRow.feed (b : Byte) : MatchesRow.Statement (.feed b) :=
  ⟨⟨0x00000012#32, 0xFFFF00FF#32, fun b => .feed b⟩, by simp [opcodeMap],
    by simp only [OpcodeRow.accepts]; revert b; decide +kernel,
    by revert b; decide +kernel⟩

theorem MatchesRow.rxack : MatchesRow.Statement .rxack :=
  ⟨⟨0x00000013#32, 0xFFFFFFFF#32, fun _ => .rxack⟩, by simp [opcodeMap], by decide, rfl⟩

theorem MatchesRow.qdec : MatchesRow.Statement .qdec :=
  ⟨⟨0x00000020#32, 0xFFFFFFFF#32, fun _ => .qdec⟩, by simp [opcodeMap], by decide, rfl⟩

theorem MatchesRow.xtrap : MatchesRow.Statement .xtrap :=
  ⟨⟨0x00000030#32, 0xFFFFFFFF#32, fun _ => .xtrap⟩, by simp [opcodeMap], by decide, rfl⟩

end Sys2Proof.Laws
end

