-- ==== Sys2Proof/Laws/Step.lean ====
section
/-!
SUPPORT. What one step can do, said once: each command ends in the state its pure function gives, each host
access is answered or refused, and a step handles the next event or idles.
-/

namespace Sys2Proof.Machine

/-- The state each command ends in. -/
def after (i : Instr) (s : State) : State :=
  match i with
  | .reset  => resetCommand s
  | .fenc   => fenc s
  | .fdec   => fdec s
  | .feed b => feed b s
  | .rxack  => rxack s
  | .qdec   => qdec s
  | .xtrap  => xtrap s

/-- Every command ends in a next state. -/
theorem exec_eq (i : Instr) (s : State) : exec i s = .next (after i s) := by
  cases i <;> rfl

theorem exec_next {i : Instr} {s t : State} (h : exec i s = .next t) : t = after i s := by
  rw [exec_eq] at h; exact (Host.Outcome.next.inj h).symm

/-- A write of `CMD` runs the command or reports an illegal word. -/
theorem runCommand_cases (w : Word) (s : State) :
    (∃ i, decodeWord w = .ok i ∧ runCommand w s = .next (after i s)) ∨
    (∃ e, decodeWord w = .error e ∧ runCommand w s = .next (s.raise .badCommand)) := by
  unfold runCommand
  cases h : decodeWord w with
  | ok i => exact .inl ⟨i, rfl, exec_eq i s⟩
  | error e => exact .inr ⟨e, rfl, rfl⟩

/-- A read that answers changes nothing but the data returned. -/
theorem answerRead_next {d : Except AccessError ReadData} {s t : State} (h : answerRead d s = .next t) :
    ∃ v, d = .ok v ∧ t = { s with returned := some v } := by
  cases d with
  | ok v => exact ⟨v, rfl, (Host.Outcome.next.inj h).symm⟩
  | error e => exact absurd h (by simp [answerRead])

theorem answerWrite_next {d : Except AccessError State} {t : State} (h : answerWrite d = .next t) : d = .ok t := by
  cases d with
  | ok v => exact congrArg _ (Host.Outcome.next.inj h)
  | error e => exact absurd h (by simp [answerWrite])

/-- Everything a byte write can do. -/
theorem memWrite_next {off size : Nat} {v : Byte} {s t : State} (h : memWrite off size v s = .next t) :
    ∃ b, regionAt off = .bytes b ∧ t = { s with mem := s.mem.write off v } := by
  have h := answerWrite_next h
  unfold byteAccess at h
  by_cases hs : size ≠ 1
  · simp [hs, bind, Except.bind] at h
  · simp only [hs, if_false] at h
    cases hr : regionAt off with
    | words => simp [hr, bind, Except.bind] at h
    | unmapped => simp [hr, bind, Except.bind] at h
    | bytes b =>
      refine ⟨b, rfl, ?_⟩
      cases b <;> simp_all [bind, Except.bind, writeBuf]

/-- A write of a register changes that register only: none of the fields the invariant speaks of. -/
theorem writeSlot_next {w : WordSlot} {v : Word} {s t : State} (h : writeSlot w v s = .ok t) :
    ∃ txhdr txlen rate ts0 q64 gyr,
      t = { s with txhdr := txhdr, txlen := txlen, rate := rate, ts0 := ts0, q64 := q64, gyr := gyr } := by
  have key : ∀ {u : State}, (.ok u : Except AccessError State) = .ok t → u = t := fun h => by
    injection h
  cases w with
  | reg r =>
    cases r <;> simp only [writeSlot, writeReg, reduceCtorEq] at h <;>
      exact ⟨_, _, _, _, _, _, (key h).symm⟩
  | lo r =>
    cases r <;> simp only [writeSlot, reduceCtorEq] at h <;> exact ⟨_, _, _, _, _, _, (key h).symm⟩
  | hi r =>
    cases r <;> simp only [writeSlot, reduceCtorEq] at h <;> exact ⟨_, _, _, _, _, _, (key h).symm⟩

/-- Everything a word write can do. -/
theorem regWrite_next {off : Nat} {w : Word} {s t : State} (h : regWrite off w s = .next t) :
    runCommand w s = .next t ∨ ∃ slot, writeSlot slot w s = .ok t := by
  unfold regWrite at h
  split at h
  · exact absurd h (by simp)
  · exact .inl h
  · exact .inr ⟨_, answerWrite_next h⟩

/-- Everything a step that goes on can do: idle, reset, read, write a buffer byte, write a register, run a
command, or report an illegal command word. -/
theorem step_cases {s t : State} (h : step s = .next t) :
    t = s ∨
    ∃ e rest, s.pending = e :: rest ∧
      (t = resetElements (s.taking rest) ∨
       (∃ v, t = { s.taking rest with returned := some v }) ∨
       (∃ off b v, regionAt off = .bytes b ∧ t = { s.taking rest with mem := s.mem.write off v }) ∨
       (∃ slot v, writeSlot slot v (s.taking rest) = .ok t) ∨
       (∃ i, t = after i (s.taking rest)) ∨
       t = (s.taking rest).raise .badCommand) := by
  unfold step at h
  split at h
  · exact .inl (Host.Outcome.next.inj h).symm
  · next e rest hp =>
    refine .inr ⟨e, rest, hp, ?_⟩
    cases e with
    | powerOnReset => exact .inl (Host.Outcome.next.inj h).symm
    | host a =>
      refine .inr ?_
      cases a with
      | regRead off =>
        obtain ⟨v, -, ht⟩ := answerRead_next h
        exact .inl ⟨v, ht⟩
      | memRead off size =>
        obtain ⟨v, -, ht⟩ := answerRead_next h
        exact .inl ⟨v, ht⟩
      | memWrite off size v =>
        obtain ⟨b, hb, ht⟩ := memWrite_next h
        exact .inr (.inl ⟨off, b, v, hb, ht⟩)
      | regWrite off w =>
        refine .inr (.inr ?_)
        rcases regWrite_next h with h | ⟨slot, h⟩
        · rcases runCommand_cases w (s.taking rest) with ⟨i, -, h'⟩ | ⟨_, -, h'⟩
          · rw [h'] at h; exact .inr (.inl ⟨i, (Host.Outcome.next.inj h).symm⟩)
          · rw [h'] at h; exact .inr (.inr (Host.Outcome.next.inj h).symm)
        · exact .inl ⟨slot, w, h⟩

end Sys2Proof.Machine
end

