-- ==== Sys2Proof/Tests/Slice0.lean ====
section
/-!
SUPPORT. The model's own tests, with expected results from the spec's vectors (`95_test_vectors.md`, named in
each comment), the smoke tests of the well-formedness checks, and for each obligation with hypotheses a witness
that meets them.
-/

namespace Sys2Proof.Tests

open Sys2Proof Sys2Proof.Machine

-- Each kernel evaluation waits for the theorems before it; in turn, no thread stands idle.
set_option Elab.async false

/-! ### Well-formedness: an ill-formed term for each check -/

theorem smoke_command_ok : Instr.wellFormed (.feed 0xFF#8) = true := by decide
theorem smoke_feed_refused : (Statement.feed 256).wellFormed = false := by decide
theorem smoke_cmdw_refused : (Statement.cmdw (2 ^ 32)).wellFormed = false := by decide
theorem smoke_wr_value_refused : (Statement.wr .txlen (2 ^ 32)).wellFormed = false := by decide
theorem smoke_wr64_register_refused : (Statement.wr64 (.xts 0) 0).wellFormed = false := by decide
theorem smoke_wr64_value_refused : (Statement.wr64 .ts0 (2 ^ 64)).wellFormed = false := by decide
theorem smoke_wrb_buffer_refused : (Statement.wrb .rxpay 0 0).wellFormed = false := by decide
theorem smoke_wrb_index_refused : (Statement.wrb .txpay 236 0).wellFormed = false := by decide
theorem smoke_wrb_byte_refused : (Statement.wrb .fbuf 243 256).wellFormed = false := by decide
theorem smoke_rdb_index_refused : (Statement.rdb .fbuf 244).wellFormed = false := by decide
theorem smoke_feeds_refused : (Statement.feeds [2, 256]).wellFormed = false := by decide
theorem smoke_wrs_buffer_refused : (Statement.wrs .rxpay 0 [1]).wellFormed = false := by decide
theorem smoke_wrs_length_refused : (Statement.wrs .txpay 235 [1, 2]).wellFormed = false := by decide
theorem smoke_wrs_byte_refused : (Statement.wrs .txpay 0 [256]).wellFormed = false := by decide
theorem smoke_wrg_index_refused : (Statement.wrg 8 0 0 0).wellFormed = false := by decide
theorem smoke_wrg_count_refused : (Statement.wrg 1 0 (-32769) 32768).wellFormed = false := by decide
theorem smoke_ldframe_length_refused : (Statement.ldframe [2]).wellFormed = false := by decide
theorem smoke_ldframe_byte_refused : (Statement.ldframe (List.replicate 244 256)).wellFormed = false := by
  decide +kernel

/-! ### Decode: words written out bit by bit from the formats of rule R61 (RSV, IMM8, OPC) -/

theorem test_decode_reset : decodeTableWord 32 0b0000000000000000_00000000_00000001 = some .reset := by decide +kernel
theorem test_decode_fenc : decodeTableWord 32 0b0000000000000000_00000000_00010000 = some .fenc := by decide +kernel
theorem test_decode_fdec : decodeTableWord 32 0b0000000000000000_00000000_00010001 = some .fdec := by decide +kernel
theorem test_decode_feed : decodeTableWord 32 0b0000000000000000_10100101_00010010 = some (.feed 0xA5#8) := by
  decide +kernel
theorem test_decode_rxack : decodeTableWord 32 0b0000000000000000_00000000_00010011 = some .rxack := by decide +kernel
theorem test_decode_qdec : decodeTableWord 32 0b0000000000000000_00000000_00100000 = some .qdec := by decide +kernel
theorem test_decode_xtrap : decodeTableWord 32 0b0000000000000000_00000000_00110000 = some .xtrap := by decide +kernel

/-- Section 5: an illegal word of each group. -/
theorem test_decode_illegal :
    decodeTableWord 32 0x80000020 = none ∧ decodeTableWord 32 0x00000110 = none ∧
    decodeTableWord 32 0x00000014 = none ∧ decodeTableWord 32 0 = none := by decide +kernel

/-- A string too short for a command word. -/
theorem test_decode_short : decode [0x01#8, 0x00#8, 0x00#8] = .error .tooShort := by rfl

/-! ### Small states and readings of results -/

/-- What stands in a next state, read by `f`. -/
def inNext {α : Type} (f : State → α) : Result → Option α
  | .next s => some (f s)
  | .fault _ => none
  | .refused _ => none

/-- Why a step was refused. -/
def refusalOf : Result → Option Refusal
  | .next _ => none
  | .fault _ => none
  | .refused r => some r

/-- The operands of vector F1. -/
def f1State : State :=
  { State.reset with
    txhdr := 0x0170#16, txlen := 8#8
    mem := State.reset.mem.writeBytes 0x200 [0x00#8, 0x00#8, 0x2A#8, 0x36#8, 0xFE#8, 0x9C#8, 0x97#8, 0x17#8] }

/-- The first 16 bytes of the frame of vector F1. -/
def f1Head : List Byte :=
  [0x02#8, 0xC1#8, 0x2B#8, 0x8D#8, 0xA5#8, 0x08#8, 0x70#8, 0x01#8, 0x00#8, 0x00#8, 0x2A#8, 0x36#8, 0xFE#8, 0x9C#8,
    0x97#8, 0x17#8]

/-- The frame of vector F1. -/
def f1Frame : List Byte := f1Head ++ List.replicate 228 0x00#8

/-- A state whose `FBUF` holds bytes from its start up. -/
def withFrame (bs : List Byte) : State := { State.reset with mem := State.reset.mem.writeBytes 0x300 bs }

/-- The frame of vector F2 as a vector of bytes. -/
def f2Bytes : Vector Byte 244 :=
  Vector.ofFn fun i : Fin 244 => [0x02#8, 0xFF#8, 0x12#8, 0xD9#8, 0x41#8].getD i.val 0x00#8

/-- 243 bytes of the frame of vector F2 buffered. -/
def almostF2 : State := { State.reset with ubuf := f2Bytes, ulen := 243#9 }

/-- 243 zero bytes buffered: no valid frame begins there. -/
def almostGarbage : State := { State.reset with ulen := 243#9 }

/-- A frame waits. -/
def frameWaits : State := { State.reset with rxvalid := true, rxhdr := 0x0170#16, rxlen := 8#8 }

/-- A command word written to `CMD` right after reset. -/
def commandAtReset (w : Nat) : State := State.reset.withFetchWord 32 w

/-! ### The framer -/

/-- Section 2.1: check values of `crc32`. -/
theorem test_crc_values :
    crc32 [] = 0x00000000#32 ∧ crc32 [0x00#8] = 0xD202EF8D#32 ∧
    crc32 [0x31#8, 0x32#8, 0x33#8, 0x34#8, 0x35#8, 0x36#8, 0x37#8, 0x38#8, 0x39#8] = 0xCBF43926#32 := by
  decide +kernel

/-- Vector F1. -/
theorem test_fenc_f1 : inNext (fun t => (t.err, t.mem.readBytes 0x300 16, t.mem.read 0x310)) (exec .fenc f1State)
    = some (0#8, f1Head, 0x00#8) := by decide +kernel

/-- Vector F6: an oversize length. -/
theorem test_fenc_f6 : inNext (fun t => (t.err, t.mem.read 0x300)) (exec .fenc { f1State with txlen := 237#8 })
    = some (2#8, 0x00#8) := by decide +kernel

/-- Vector FD1. -/
theorem test_fdec_fd1 : inNext (fun t => (t.err, t.dhdr, t.dlen)) (exec .fdec (withFrame f1Head))
    = some (0#8, 0x0170#16, 8#8) := by decide +kernel

/-- Vectors FD4 and FD7: the start byte is tested first; one payload bit changed. -/
theorem test_fdec_fd4_fd7 :
    inNext (·.err) (exec .fdec (withFrame ((f1Head.set 0 0x03#8).set 5 0xED#8))) = some 1#8 ∧
    inNext (·.err) (exec .fdec (withFrame (f1Head.set 8 0x01#8))) = some 3#8 := by decide +kernel

/-- Vector U7, with F2: the last byte emits the frame, and padding is not checked. -/
theorem test_feed_emits :
    inNext (fun t => (t.err, t.rxvalid, t.ulen, t.dropcnt, t.mem.read 0x4EB)) (exec (.feed 0xFF#8) almostF2)
      = some (0#8, true, 0#9, 0#32, 0xFF#8) := by decide +kernel

/-- Vector U10: the drop counter wraps. -/
theorem test_feed_discards :
    inNext (fun t => (t.err, t.ulen, t.dropcnt, t.ubuf[242])) (exec (.feed 0x55#8) { almostGarbage with dropcnt := 0xFFFFFFFF#32 })
      = some (0#8, 243#9, 0#32, 0x55#8) := by decide +kernel

/-- Vector U8: the flag clears and the header stays. -/
theorem test_rxack : inNext (fun t => (t.err, t.rxvalid, t.rxhdr)) (exec .rxack frameWaits)
    = some (0#8, false, 0x0170#16) := by decide +kernel

/-- Program P5, statement 25: `RESET` with a frame waiting. -/
theorem test_reset : inNext (fun t => decide (t = State.reset)) (exec .reset { frameWaits with err := 6#8 })
    = some true := by decide +kernel

/-! ### The quaternion decoder -/

/-- Vector Q8. -/
theorem test_qdec_q8 :
    inNext (fun t => (t.err, t.qd, t.qflagsWord)) (exec .qdec { State.reset with q64 := 0x3921A1A4342B64E4#64 })
      = some (0#8, ⟨0x3DCCCCD8#32, 0x3E4CCCA8#32, 0x3E9999A2#32, 0x3F6D6796#32⟩, 0xC#32) := by decide +kernel

/-- Vector Q1: the omitted component is clamped. -/
theorem test_qdec_q1 :
    inNext (fun t => (t.qd, t.qflagsWord)) (exec .qdec { State.reset with q64 := 0x4000000000000000#64 })
      = some (⟨0x00000000#32, 0xBF3504F3#32, 0xBF3504F3#32, 0xBF3504F3#32⟩, 0x1#32) := by decide +kernel

/-! ### The extrapolation engine -/

/-- Vectors X4 and X1: a degenerate anchor is copied un-normalised, and the fourth timestamp wraps. -/
theorem test_xtrap_zero_rates :
    inNext (fun t => (t.err, t.xq[7].w, t.xq[7].z, t.xts[3], t.xts[4], t.xflagsWord))
      (exec .xtrap { State.reset with rate := 10#8, ts0 := 0x7FFFFFFFEE1E5CFF#64 })
      = some (0#8, 0x00000000#32, 0xBF3504F3#32, 0x7FFFFFFFFFFFFFFF#64, 0x8000000005F5E0FF#64, 0x0#32) := by
  decide +kernel

/-- Vector XE: the reset rate is illegal. -/
theorem test_xtrap_bad_rate : inNext (·.err) (exec .xtrap State.reset) = some 5#8 := by decide +kernel

/-- `NUM = binary32` with correctly rounded sine and cosine: a stand-in outside the bound is replaced by the
nearest number. The `binary32` columns of section 4 were computed so. -/
def roundedNum : Num F32 := binary32With (fun _ => 0x7FC00000#32) (fun _ => 0x7FC00000#32)

/-- Vector X2, sample 1. -/
theorem test_sample_x2 :
    sample roundedNum (roundedNum.fconst (.halfPeriod .hz100)) (q3Decode roundedNum 0x0800008000080000#64).q
      (fun _ => ⟨0, 0, 1000⟩) 1 = ⟨0x3F7FFF12#32, 0x3530EF57#32, 0x352F0F61#32, 0x3BAE8DB7#32⟩ := by decide +kernel

/-- Vector X3, sample 3 from sample 2: extreme counts. -/
theorem test_sample_x3 :
    nextSample roundedNum (roundedNum.fconst (.halfPeriod .hz50))
      ⟨0x3DD11F6F#32, 0x3E49E6E8#32, 0x3E9A8A81#32, 0x3F6D5925#32⟩ ⟨-32768, 32767, 1⟩
      = ⟨0x3D60A363#32, 0xBE2F5418#32, 0xBC2E4480#32, 0x3F7BD058#32⟩ := by decide +kernel

/-! ### The host port (section 6) -/

/-- Narrow registers keep the low bits and read back zero-extended; `GYR[1][2]` is at `0x094`. -/
theorem test_register_write_then_read :
    inNext (·.returned) (runActions [.regWrite 0x014 0x12345678#32, .regRead 0x014] State.reset)
      = some (some (.word 0x00005678#32)) ∧
    inNext (fun t => (t.returned, t.gyr[1][2])) (runActions [.regWrite 0x094 0xFFFFFED4#32, .regRead 0x094] State.reset)
      = some (some (.word 0x0000FED4#32), 0xFED4#16) := by decide +kernel

/-- The low half of a 64-bit register is at the lower offset. -/
theorem test_q64_halves :
    inNext (·.q64) (runActions [.regWrite 0x038 0x342B64E4#32, .regWrite 0x03C 0x3921A1A4#32] State.reset)
      = some 0x3921A1A4342B64E4#64 := by decide +kernel

/-- The refused accesses of the table. -/
theorem test_refused_accesses :
    refusalOf (hostAction (.regRead 0x000) State.reset) = some (.refusedAccess .writeOnly) ∧
    refusalOf (hostAction (.regWrite 0x008 0#32) State.reset) = some (.refusedAccess .readOnly) ∧
    refusalOf (hostAction (.regRead 0x058) State.reset) = some (.refusedAccess .unmapped) ∧
    refusalOf (hostAction (.regRead 0x016) State.reset) = some (.refusedAccess .misaligned) ∧
    refusalOf (hostAction (.memWrite 0x400 1 0#8) State.reset) = some (.refusedAccess .readOnly) ∧
    refusalOf (hostAction (.memRead 0x014 1) State.reset) = some (.refusedAccess .wrongWidth) ∧
    refusalOf (hostAction (.memRead 0x200 2) State.reset) = some (.refusedAccess .badSize) := by decide +kernel

/-- One step runs the command word as the first action after reset. -/
theorem test_step_runs_word :
    inNext (fun t => (t.err, t.ulen, t.ubuf[0], t.pending)) (step (commandAtReset 0x00000212))
      = some (0#8, 1#9, 0x02#8, []) ∧
    inNext (·.err) (step (commandAtReset 0x00000030)) = some 5#8 ∧
    inNext (·.err) (step (commandAtReset 0x00010012)) = some 4#8 := by decide +kernel

/-- Rule R67: the expansion of `WRG` in program P4, statement 11. -/
theorem test_wrg_expansion : Statement.expand (.wrg 0 123 (-456) 789)
    = some [.regWrite 0x080 0x007B#32, .regWrite 0x084 0xFE38#32, .regWrite 0x088 0x0315#32] := by decide +kernel

/-- Rules R66 and R46: `WR` may name a read-only register; the access it expands to is refused. -/
theorem test_wr_readonly :
    Statement.expand (.wr .err 0) = some [.regWrite 0x008 0#32] ∧
    refusalOf (step { State.reset with pending := [.host (.regWrite 0x008 0#32)] }) = some (.refusedAccess .readOnly) ∧
    Statement.expand (.rd .cmd) = some [.regRead 0x000] := by decide +kernel

/-- Rule R113 at a tiny argument, by hand from `sin a = a - a³/6 + …`: next to `2^-110` the unit in the last place of
the sine is `2^-134`, so the argument and the number below it are in the bound, the numbers around them are not. -/
theorem test_sine_bound_at_tiny_argument :
    let v := sinFixed (trigScale false (2 ^ 23) (-133))
    F32.kind 0x08800000#32 = .fin false (2 ^ 23) (-133) ∧
    ([0x087FFFFE#32, 0x087FFFFF#32, 0x08800000#32, 0x08800001#32].map (withinUlp v ·)) = [false, true, true, false] := by
  decide +kernel

/-- Scenario 3 of section 1.3: two real-time frames and 20 send-buffer bytes. -/
theorem test_notification :
    (splitNotification (0xFD#8 :: List.replicate 508 0x00#8)).map (fun p => (p.1.length, p.2.length)) = some (2, 20) := by
  decide +kernel

end Sys2Proof.Tests
end

