-- ==== Sys2Proof/Tests/Witnesses.lean ====
section
/-!
SUPPORT. For each obligation with hypotheses, a concrete state and operands that meet them, one for each clause
and at the ends of its range. The name of a witness is the obligation's with `witness_` before it.
-/

namespace Sys2Proof.Tests

open Sys2Proof Sys2Proof.Machine

-- Each kernel evaluation waits for the theorems before it; in turn, no thread stands idle.
set_option Elab.async false

/-! ### Encoding and decode -/

theorem witness_WordsDecodeByTheOpcodeMap :
    0x00000001#32 &&& 0xFFFFFFFF#32 = 0x00000001#32 ∧ 0x00000010#32 &&& 0xFFFFFFFF#32 = 0x00000010#32 ∧
    0x00000011#32 &&& 0xFFFFFFFF#32 = 0x00000011#32 ∧ 0x00000013#32 &&& 0xFFFFFFFF#32 = 0x00000013#32 ∧
    0x00000020#32 &&& 0xFFFFFFFF#32 = 0x00000020#32 ∧ 0x00000030#32 &&& 0xFFFFFFFF#32 = 0x00000030#32 ∧
    0x00000012#32 &&& 0xFFFF00FF#32 = 0x00000012#32 ∧ 0x0000FF12#32 &&& 0xFFFF00FF#32 = 0x00000012#32 := by decide

theorem witness_DecodeUndoesEncode :
    Instr.wellFormed (.feed 0x00#8) = true ∧ Instr.wellFormed (.feed 0xFF#8) = true ∧
    Instr.wellFormed .xtrap = true := by decide

theorem witness_EncodeUndoesDecode : decodeWord 0x0000FF12#32 = .ok (.feed 0xFF#8) := rfl

/-- One word for each group of illegal words. -/
theorem witness_IllegalWordsOnlySetBadCommand :
    (0x00000014#32 ∉ [0x01#32, 0x10#32, 0x11#32, 0x13#32, 0x20#32, 0x30#32] ∧
      0x00000014#32 &&& 0xFFFF00FF#32 ≠ 0x12#32) ∧
    (0x00010012#32).extractLsb' 16 16 ≠ 0#16 ∧
    (0x000000FF#32).extractLsb' 0 8 ∉ [0x01#8, 0x10#8, 0x11#8, 0x12#8, 0x13#8, 0x20#8, 0x30#8] ∧
    ((0x00000110#32).extractLsb' 0 8 ∈ [0x01#8, 0x10#8, 0x11#8, 0x13#8, 0x20#8, 0x30#8] ∧
      (0x00000110#32).extractLsb' 8 8 ≠ 0#8) := by decide +kernel

theorem witness_CommandStatementsAssemble : (255 : Nat) ≤ 255 ∧ (255 : Nat) < 256 ∧ 2 ^ 32 - 1 < 2 ^ 32 := by decide

/-! ### Steps, reset and the whole machine -/

theorem witness_StepRunsTheCommandWritten :
    (commandAtReset 0x00000212).pending = .host (.regWrite 0x000 0x00000212#32) :: [] ∧
    decodeWord 0x00000212#32 = .ok (.feed 0x02#8) := ⟨by decide, rfl⟩

theorem witness_StepWithoutEventIsIdle : State.reset.pending = [] := rfl

theorem witness_ResetCommandZeroesEveryElement :
    (0x00000101#32).extractLsb' 0 8 = 0x01#8 ∧ 0x00000101#32 ≠ 0x00000001#32 := by decide

/-- The reset state has the invariant's parts, with a step that goes on from it. -/
theorem reset_inv : State.reset.Inv where
  memWf := Memory.wf_nil
  memMapped := by simp [State.reset]
  ulenBound := by decide
  errCode := by decide
  dlenBound := by decide
  rxlenBound := by decide
  waitingEmpty := by decide

theorem witness_StepKeepsTheInvariant : State.reset.Inv ∧ step State.reset = .next State.reset := ⟨reset_inv, rfl⟩

theorem witness_ErrorsAreAllOrNothing : exec .xtrap State.reset = .next (xtrap State.reset) ∧
    (xtrap State.reset).err ≠ 0#8 := ⟨rfl, by decide⟩

theorem witness_CommandsEndWithTheirOwnCodes : exec (.feed 0x02#8) frameWaits = .next (feed 0x02#8 frameWaits) := rfl

/-- `FENC` meets every premise but its own clause's, and `XTRAP` that one. -/
theorem witness_CommandsWriteOnlyTheirElements :
    (exec .fenc f1State = .next (fenc f1State) ∧ Instr.fenc ≠ .reset ∧ (∀ b, Instr.fenc ≠ .feed b) ∧
      Instr.fenc ≠ .rxack ∧ Instr.fenc ≠ .fdec ∧ Instr.fenc ≠ .qdec ∧ Instr.fenc ≠ .xtrap) ∧
    (exec .xtrap f1State = .next (xtrap f1State) ∧ Instr.xtrap ≠ .fenc) :=
  ⟨⟨rfl, by decide, fun _ h => (by cases h), by decide, by decide, by decide, by decide⟩, rfl, by decide⟩

/-- `FEED` sets the flag, `RXACK` clears it, and the other two commands write their own flags. -/
theorem witness_FlagsChangeOnlyByTheirCommands :
    (almostF2.rxvalid = false ∧ (feed 0x00#8 almostF2).rxvalid = true) ∧
    (frameWaits.rxvalid = true ∧ (rxack frameWaits).rxvalid = false) ∧
    Instr.xtrap ≠ .qdec ∧ Instr.xtrap ≠ .reset ∧ Instr.qdec ≠ .xtrap ∧ Instr.qdec ≠ .reset := by decide +kernel

/-- One discard, and one reset that clears a count. -/
theorem witness_DropCounterChangesOnlyByFeedAndReset :
    (almostGarbage.ulen.toNat ≤ 243 ∧
      inNext (·.dropcnt) (step (almostGarbage.withFetchWord 32 0x00005512)) = some 1#32 ∧
      almostGarbage.dropcnt ≠ 1#32) ∧
    inNext (·.dropcnt) (step (({ State.reset with dropcnt := 7#32 } : State).withFetchWord 32 0x00000001)) = some 0#32 := by
  decide +kernel

/-- Two states that differ in a stale byte of the unpacker buffer, and a refused access. -/
theorem witness_StaleUnpackerBytesAreUnobservable :
    State.reset.ulen.toNat ≤ 243 ∧ State.reset.Indistinguishable { State.reset with ubuf := f2Bytes } ∧
    refusalOf (step { State.reset with pending := [.host (.regRead 0x058)] }) = some (.refusedAccess .unmapped) :=
  ⟨by decide, ⟨rfl, by decide +kernel⟩, by decide +kernel⟩

/-! ### The framer -/

theorem f1State_wf : f1State.mem.wf := Memory.wf_writeBytes Memory.wf_nil _ _

/-- Sizes 237 and 255 fail, 0, 8 and 236 pass. -/
theorem witness_FencEncodesTheFrame :
    236 < ({ State.reset with txlen := 237#8 } : State).txlen.toNat ∧
    236 < ({ State.reset with txlen := 255#8 } : State).txlen.toNat ∧
    (State.reset.mem.wf ∧ State.reset.txlen.toNat ≤ 236) ∧ (f1State.mem.wf ∧ f1State.txlen.toNat ≤ 236) ∧
    ({ State.reset with txlen := 236#8 } : State).txlen.toNat ≤ 236 :=
  ⟨by decide, by decide, ⟨Memory.wf_nil, by decide⟩, ⟨f1State_wf, by decide⟩, by decide⟩

/-- The frame of F1 with its size field at 237: no CRC is looked at. -/
def oversizeFrame : State := withFrame (f1Head.set 5 237#8)

/-- The frame of F1 with its first payload byte changed. -/
def corruptFrame : State := withFrame (f1Head.set 8 0x01#8)

/-- A state for each of the four outcomes: reset, an oversize frame, a corrupted frame, a good one. -/
theorem witness_FdecChecksAndDecodes :
    State.reset.mem.read 0x300 ≠ 0x02#8 ∧
    (oversizeFrame.mem.read 0x300 = 0x02#8 ∧ 236 < (oversizeFrame.mem.read 0x305).toNat) ∧
    (corruptFrame.mem.read 0x300 = 0x02#8 ∧ (corruptFrame.mem.read 0x305).toNat ≤ 236 ∧
      crc32 (corruptFrame.mem.readBytes 0x306 (2 + (corruptFrame.mem.read 0x305).toNat)) ≠
        fromLe32 (corruptFrame.mem.readBytes 0x301 4)) ∧
    ((withFrame f1Head).mem.read 0x300 = 0x02#8 ∧ ((withFrame f1Head).mem.read 0x305).toNat ≤ 236 ∧
      crc32 ((withFrame f1Head).mem.readBytes 0x306 (2 + ((withFrame f1Head).mem.read 0x305).toNat)) =
        fromLe32 ((withFrame f1Head).mem.readBytes 0x301 4)) := by
  decide +kernel

/-- The operands of F1 one way; the other way the frame of F1, with a memory whose `TXPAY` holds its payload. -/
theorem witness_EncodeAndDecodeRoundTrip :
    (f1State.mem.wf ∧ f1State.txlen.toNat ≤ 236) ∧
    ((withFrame f1Head).mem.wf ∧ exec .fdec (withFrame f1Head) = .next (fdec (withFrame f1Head)) ∧
      (fdec (withFrame f1Head)).err = 0#8 ∧ f1State.mem.wf ∧
      ∀ j, j < (fdec (withFrame f1Head)).dlen.toNat →
        f1State.mem.read (0x200 + j) = (withFrame f1Head).mem.read (0x308 + j)) := by
  refine ⟨⟨f1State_wf, by decide⟩, Memory.wf_writeBytes Memory.wf_nil _ _, rfl, by decide +kernel, f1State_wf, ?_⟩
  have h : (fdec (withFrame f1Head)).dlen.toNat = 8 := by decide +kernel
  rw [h]
  have : ∀ j : Fin 8, f1State.mem.read (0x200 + j.val) = (withFrame f1Head).mem.read (0x308 + j.val) := by
    decide +kernel
  exact fun j hj => this ⟨j, hj⟩

/-- The frame of F1 passes; a byte for each clause: the first and last covered byte, the first and last padding byte,
byte 0, bytes 1 and 4, and byte 5. -/
theorem witness_OneByteChangesAreDetected :
    (f1Frame.length = 244 ∧ (byteAt f1Frame 5).toNat = 8 ∧
      (∀ k ∈ [6, 15, 16, 243, 0, 1, 4, 5], 0xEE#8 ≠ byteAt f1Frame k) ∧ 236 < (0xEE#8).toNat) ∧
    frameCheck f1Frame = .ok := by
  constructor <;> decide +kernel

theorem witness_FeedIsRefusedWhileAFrameWaits : frameWaits.rxvalid = true := rfl

/-- An empty buffer and one with 242 bytes. -/
theorem witness_FeedAppendsItsByte :
    (State.reset.rxvalid = false ∧ State.reset.ulen.toNat < 243) ∧
    ({ State.reset with ulen := 242#9 } : State).ulen.toNat < 243 := by decide

theorem witness_FeedDiscardsOneByteOfAnInvalidWindow :
    almostGarbage.rxvalid = false ∧ almostGarbage.ulen.toNat = 243 ∧
    frameCheck (almostGarbage.buffered ++ [0x55#8]) ≠ .ok := by decide +kernel

theorem witness_FeedEmitsAValidFrame :
    almostF2.mem.wf ∧ almostF2.rxvalid = false ∧ almostF2.ulen.toNat = 243 ∧
    frameCheck (almostF2.buffered ++ [0x00#8]) = .ok := ⟨Memory.wf_nil, by decide +kernel⟩

theorem witness_FeedLoopRunsAtMostOnce :
    almostF2.ulen.toNat ≤ 243 ∧ exec (.feed 0x00#8) almostF2 = .next (feed 0x00#8 almostF2) := ⟨by decide, rfl⟩

theorem witness_ChunkingDoesNotMatter :
    almostF2.mem.wf ∧ almostF2.rxvalid = false ∧ almostF2.ulen.toNat ≤ 243 := ⟨Memory.wf_nil, by decide⟩

theorem witness_FeedingIsTheScan :
    State.reset.mem.wf ∧ State.reset.rxvalid = false ∧ State.reset.ulen.toNat ≤ 243 := ⟨Memory.wf_nil, by decide⟩

/-- Five bytes of garbage, the first a start byte. -/
def garbage : List Byte := [0x02#8, 0x55#8, 0x55#8, 0x55#8, 0x55#8]

/-- Garbage in which no window passes, before the frame of F1. -/
theorem witness_FrameAfterGarbageIsRecovered :
    f1Frame.length = 244 ∧ frameCheck f1Frame = .ok ∧
    ∀ p, p < garbage.length → frameCheck (slice (garbage ++ f1Frame) p (p + 244)) ≠ .ok := by
  refine ⟨by decide +kernel, by decide +kernel, ?_⟩
  have : ∀ p : Fin 5, frameCheck (slice (garbage ++ f1Frame) p.val (p.val + 244)) ≠ .ok := by decide +kernel
  exact fun p hp => this ⟨p, hp⟩

/-- No real-time frame, the most of them under both leading bytes that say so, and a notification one byte short. -/
theorem witness_NotificationsSplitIntoFrames :
    1 + 244 * min (255 - (0xFF#8).toNat) 254 ≤ (0xFF#8 :: ([] : List Byte)).length ∧
    (∀ b0 ∈ [0x00#8, 0x01#8],
      1 + 244 * min (255 - b0.toNat) 254 ≤ (b0 :: List.replicate (244 * 254) (0x00#8)).length) ∧
    (0xFE#8 :: List.replicate 243 (0x00#8)).length < 1 + 244 * min (255 - (0xFE#8).toNat) 254 := by
  simp only [List.length_cons, List.length_replicate, List.length_nil]
  decide

/-! ### The quaternion decoder -/

/-- A word for each value of `axis` (vectors Q6a to Q6d). -/
theorem witness_QdecPlacesTheComponents :
    (0x0900008000070000#64).extractLsb' 60 2 = 0#2 ∧ (0x1900008000070000#64).extractLsb' 60 2 = 1#2 ∧
    (0x2900008000070000#64).extractLsb' 60 2 = 2#2 ∧ (0x3900008000070000#64).extractLsb' 60 2 = 3#2 := by
  decide +kernel

theorem dequant_zero_sq : dequant realNum 0#20 ^ 2 = 1 / 2 := by
  have h : Real.sqrt 2 ^ 2 = 2 := Real.sq_sqrt (by norm_num)
  simp only [dequant, realNum, RealConst.value]
  simp [h]

theorem dequant_half_sq : dequant realNum 0x80000#20 ^ 2 ≤ 1 / 3 := by
  have h : Real.sqrt 2 ^ 2 = 2 := Real.sq_sqrt (by norm_num)
  have h0 : Real.sqrt 2 ≠ 0 := by positivity
  have : dequant realNum 0x80000#20 = Real.sqrt 2 * (1 / 2097150) := by
    simp only [dequant, realNum, RealConst.value]
    norm_num
    field_simp
    rw [h]; norm_num
  rw [this, mul_pow, h]; norm_num

/-- The all-zero word is degenerate and the encoding of the identity is not (vectors Q2 and Q4). -/
theorem witness_DecodedNormUnderReal : 1 < storedSq 0x0000000000000000#64 ∧ storedSq 0x0800008000080000#64 ≤ 1 := by
  have a0 : rawField0 0x0800008000080000#64 = 0x80000#20 := by decide +kernel
  have a1 : rawField1 0x0800008000080000#64 = 0x80000#20 := by decide +kernel
  have a2 : rawField2 0x0800008000080000#64 = 0x80000#20 := by decide +kernel
  have b0 : rawField0 0x0000000000000000#64 = 0#20 := by decide +kernel
  have b1 : rawField1 0x0000000000000000#64 = 0#20 := by decide +kernel
  have b2 : rawField2 0x0000000000000000#64 = 0#20 := by decide +kernel
  have hz := dequant_zero_sq
  have hh := dequant_half_sq
  constructor
  · rw [storedSq, b0, b1, b2, hz]; norm_num
  · rw [storedSq, a0, a1, a2]; linarith

theorem witness_StoredComponentsComeBackWithinHalfAStep :
    Quat.normSq ⟨1, 0, 0, 0⟩ = 1 ∧ (1 : Fin 4) ≠ largestIndex ⟨1, 0, 0, 0⟩ := by
  have h : largestIndex ⟨1, 0, 0, 0⟩ = 0 := by simp [largestIndex]
  exact ⟨by norm_num [Quat.normSq], by rw [h]; decide⟩

/-! ### The extrapolation engine -/

/-- The reset rate and a neighbour of a legal rate. -/
theorem witness_IllegalRatesAreRefused :
    State.reset.rate.toNat ∉ [1, 10, 25, 50, 100, 200] ∧
    ({ State.reset with rate := 201#8 } : State).rate.toNat ∉ [1, 10, 25, 50, 100, 200] := by decide

/-- Both ends of the table. -/
theorem witness_XtrapFollowsTheRecurrence :
    ((200, 5000000, 0x3B23D70A#32) : Nat × Nat × Word) ∈
      [(200, 5000000, 0x3B23D70A#32), (100, 10000000, 0x3BA3D70A#32), (50, 20000000, 0x3C23D70A#32),
        (25, 40000000, 0x3CA3D70A#32), (10, 100000000, 0x3D4CCCCD#32), (1, 1000000000, 0x3F000000#32)] ∧
    ({ State.reset with rate := 200#8 } : State).rate.toNat = 200 ∧
    ({ State.reset with rate := 1#8 } : State).rate.toNat = 1 ∧
    State.reset.rate.toNat ∉ [1, 10, 25, 50, 100, 200] := by decide

theorem witness_TimestampsCountUpByThePeriod :
    ({ State.reset with rate := 1#8 } : State).rate.toNat ∈ [1, 10, 25, 50, 100, 200] ∧
    ({ State.reset with rate := 200#8 } : State).rate.toNat ∈ [1, 10, 25, 50, 100, 200] := by decide

/-- All counts zero, with any counts for sample 0. -/
theorem witness_ZeroGyroRepeatsTheAnchor :
    let s : State := { State.reset with rate := 100#8, gyr := State.reset.gyr.set 0 (Vector.replicate 3 0x7FFF#16) }
    s.rate.toNat ∈ [1, 10, 25, 50, 100, 200] ∧ (∀ (i : Fin 8) (a : Fin 3), 1 ≤ i.val → s.gyr[i][a] = 0#16) ∧
    ∀ j, 1 ≤ j → j ≤ 7 → (fun _ : Nat => (⟨0, 0, 0⟩ : Counts)) j = ⟨0, 0, 0⟩ :=
  ⟨by decide, by decide +kernel, fun _ _ _ => rfl⟩

theorem witness_AnchorAgreesWithQdec :
    ({ State.reset with rate := 25#8 } : State).rate.toNat ∈ [1, 10, 25, 50, 100, 200] := by decide

theorem witness_IncrementsAreUnitUnderReal :
    Counts.isZero ⟨0, 0, -1⟩ = false ∧ Quat.normSq ⟨0, 1, 0, 0⟩ = 1 := ⟨by decide, by norm_num [Quat.normSq]⟩

/-- A turn at sample 2 after a zero triplet at sample 1 (as in vector X4). -/
theorem witness_SamplesAreUnitUnderReal :
    let g : Nat → Counts := fun i => if i = 2 then ⟨0, 0, 16384⟩ else ⟨0, 0, 0⟩
    (∃ j, 1 ≤ j ∧ j ≤ 2 ∧ (g j).isZero = false) ∧ (∀ j, 1 ≤ j → j ≤ 1 → (g j).isZero = true) := by
  refine ⟨⟨2, by omega, by omega, by decide⟩, fun j h1 h2 => ?_⟩
  have : j = 1 := by omega
  subst this; decide

theorem witness_HalfAngleIsBounded :
    (-32768 ≤ (-32768 : Int) ∧ (-32768 : Int) ≤ 32767) ∧ (-32768 ≤ (32767 : Int) ∧ (32767 : Int) ≤ 32767) := by decide

theorem witness_ConstantRateClosedForm :
    Quat.normSq ⟨1, 0, 0, 0⟩ = 1 ∧ Counts.isZero ⟨0, 0, 1000⟩ = false := ⟨by norm_num [Quat.normSq], by decide⟩

/-! ### The arithmetic of `NUM = binary32` -/

theorem toReal_one : F32.toReal 0x3F800000#32 = 1 := by
  have h : F32.kind 0x3F800000#32 = .fin false (2 ^ 23) (-23) := by decide +kernel
  simp only [F32.toReal, h]; norm_num

theorem witness_SumsAndProductsAreCorrectlyRounded :
    F32.isFinite 0x7F7FFFFF#32 = true ∧ F32.isFinite 0x80000001#32 = true := by decide +kernel

theorem witness_QuotientsAndRootsAreCorrectlyRounded :
    F32.isFinite 0x3F800000#32 = true ∧ F32.toReal 0x3F800000#32 ≠ 0 ∧ 0 ≤ F32.toReal 0x3F800000#32 := by
  rw [toReal_one]; exact ⟨by decide +kernel, by norm_num, by norm_num⟩

theorem witness_IntegerConversionIsExact :
    (1048575 : Int).natAbs ≤ 2 ^ 24 ∧ (-32768 : Int).natAbs ≤ 2 ^ 24 ∧ F32.isFinite 0x80000000#32 = true := by
  decide +kernel

/-- Both ends of the range that rule R110 asks `i2f` for. -/
theorem witness_NumberRecordsAreWhole : (2 ^ 20 : Int).natAbs ≤ 2 ^ 20 ∧ (-2 ^ 20 : Int).natAbs ≤ 2 ^ 20 := by
  decide +kernel

theorem witness_FixedPointSineAndCosineAreAccurate :
    (0 : Int).natAbs ≤ 64 * 2 ^ 512 ∧ (-(64 * 2 ^ 512) : Int).natAbs ≤ 64 * 2 ^ 512 := by decide +kernel

/-- The numbers 64 and -0. -/
theorem witness_SineAndCosineAreHeldWithinOneUlp :
    (F32.kind 0x42800000#32 = .fin false (2 ^ 23) (-17) ∧
      (trigScale false (2 ^ 23) (-17)).natAbs ≤ 64 * 2 ^ 512) ∧
    (F32.kind 0x80000000#32 = .fin true 0 (-149) ∧ (trigScale true 0 (-149)).natAbs ≤ 64 * 2 ^ 512) := by
  decide +kernel

/-! ### The host port -/

/-- The first and the last byte of each buffer. -/
theorem witness_BufferBytesReadBack :
    State.reset.mem.wf ∧ ((0x200 ≤ 0x200 ∧ 0x200 ≤ 0x2EB) ∧ (0x200 ≤ 0x2EB ∧ 0x2EB ≤ 0x2EB)) ∧
    ((0x300 ≤ 0x300 ∧ 0x300 ≤ 0x3F3) ∧ (0x300 ≤ 0x3F3 ∧ 0x3F3 ≤ 0x3F3)) ∧
    ((0x400 ≤ 0x400 ∧ 0x400 ≤ 0x4EB) ∧ (0x400 ≤ 0x4EB ∧ 0x4EB ≤ 0x4EB)) ∧ (4 : Nat) ≠ 1 := ⟨Memory.wf_nil, by decide⟩

/-- The first and last permitted offsets of each kind of access, and their neighbours. -/
theorem witness_AccessesAreRefusedExactlyWhenNotPermitted :
    (HostAction.regRead 0x004).permitted = true ∧ (HostAction.regRead 0x000).permitted = false ∧
    (HostAction.regRead 0x1BC).permitted = true ∧ (HostAction.regRead 0x1C0).permitted = false ∧
    (HostAction.regWrite 0x000 0#32).permitted = true ∧ (HostAction.regWrite 0x0DC 0#32).permitted = true ∧
    (HostAction.regWrite 0x0E0 0#32).permitted = false ∧ (HostAction.memRead 0x4EB 1).permitted = true ∧
    (HostAction.memRead 0x4EC 1).permitted = false ∧ (HostAction.memWrite 0x3F3 1 0#8).permitted = true ∧
    (HostAction.memWrite 0x400 1 0#8).permitted = false ∧ (HostAction.memWrite 0x200 2 0#8).permitted = false := by
  decide

/-- An idle step, a register read and a byte read go on. -/
theorem witness_ReadsAndIdlingChangeNoElement :
    inNext (·.returned) (step State.reset) = some none ∧
    inNext (·.returned) (step { State.reset with pending := [.host (.regRead 0x008)] }) = some (some (.word 0#32)) ∧
    inNext (·.returned) (step { State.reset with pending := [.host (.memRead 0x3F3 1)] }) = some (some (.byte 0#8)) := by
  decide +kernel

end Sys2Proof.Tests
end

section
/-!
PROOFS, family `20_memory.md`: the host port. One rule for each access primitive (what `RegRead`, `RegWrite`,
`MemRead` and `MemWrite` answer once the slot or the buffer is known), the flag words of rule R23 as sums, and
from these the three obligations of the family.
-/

namespace Sys2Proof.Machine

/-! ### An access answers or is refused -/

/-- The result `r` goes on when `p` holds, and is a refused access (rule R46) when it does not. -/
def AnswersExactlyWhen (p : Bool) (r : Result) : Prop :=
  (p = true → ∃ t, r = .next t) ∧ (p = false → ∃ e, r = .refused (.refusedAccess e))

theorem answersExactlyWhen_next (t : State) : AnswersExactlyWhen true (.next t) :=
  ⟨fun _ => ⟨t, rfl⟩, nofun⟩

theorem answersExactlyWhen_refused (e : AccessError) : AnswersExactlyWhen false (.refused (.refusedAccess e)) :=
  ⟨nofun, fun _ => ⟨e, rfl⟩⟩

theorem answersExactlyWhen_answerRead (d : Except AccessError ReadData) (s : State) :
    AnswersExactlyWhen d.isOk (answerRead d s) := by
  cases d with
  | ok v => exact answersExactlyWhen_next _
  | error e => exact answersExactlyWhen_refused e

theorem answersExactlyWhen_answerWrite (d : Except AccessError State) :
    AnswersExactlyWhen d.isOk (answerWrite d) := by
  cases d with
  | ok t => exact answersExactlyWhen_next t
  | error e => exact answersExactlyWhen_refused e

/-! ### Word accesses -/

theorem regRead_error {off : Nat} {e : AccessError} (h : wordAccess off = .error e) (s : State) :
    regRead off s = .refused (.refusedAccess e) := by
  simp only [regRead, h]; rfl

theorem regRead_offset (w : WordSlot) (s : State) :
    regRead (WordSlot.offset w) s = answerRead ((readSlot w s).map .word) s := by
  unfold regRead
  rw [wordAccess_offset]
  change answerRead (readSlot w s >>= fun v => pure (.word v)) s = _
  cases readSlot w s <;> rfl

theorem regWrite_error {off : Nat} {e : AccessError} (h : wordAccess off = .error e) (v : Word) (s : State) :
    regWrite off v s = .refused (.refusedAccess e) := by
  simp only [regWrite, h]

theorem regWrite_cmd (v : Word) (s : State) : regWrite (WordSlot.offset (.reg .cmd)) v s = runCommand v s := by
  simp only [regWrite, wordAccess_offset]

theorem regWrite_offset {w : WordSlot} (hw : w ≠ .reg .cmd) (v : Word) (s : State) :
    regWrite (WordSlot.offset w) v s = answerWrite (writeSlot w v s) := by
  simp only [regWrite, wordAccess_offset]

/-- Rule R41: a readable slot's offset returns what the slot reads as. -/
theorem regRead_of_readSlot {off : Nat} {v : Word} {s : State} (w : WordSlot) (hoff : WordSlot.offset w = off)
    (h : readSlot w s = .ok v) : regRead off s = .next { s with returned := some (.word v) } := by
  rw [← hoff, regRead_offset, h]; rfl

/-- Rule R42: a write at a slot's offset ends in the state the slot's write gives. No slot with such a write is
`CMD`. -/
theorem regWrite_of_writeSlot {off : Nat} {v : Word} {s t : State} (w : WordSlot) (hoff : WordSlot.offset w = off)
    (h : writeSlot w v s = .ok t) : regWrite off v s = .next t := by
  have hw : w ≠ .reg .cmd := by rintro rfl; cases h
  rw [← hoff, regWrite_offset hw, h]; rfl

/-- A command word always ends in a next state, legal or not (rules R47, R161). -/
theorem answersExactlyWhen_runCommand (v : Word) (s : State) : AnswersExactlyWhen true (runCommand v s) := by
  rcases runCommand_cases v s with ⟨i, -, h⟩ | ⟨e, -, h⟩
  · rw [h]; exact answersExactlyWhen_next _
  · rw [h]; exact answersExactlyWhen_next _

/-! ### What the tables permit, slot by slot -/

/-- Every slot but `CMD` can be read (rule R24). -/
theorem isOk_readSlot (w : WordSlot) (s : State) :
    (readSlot w s).isOk = (HostAction.regRead (WordSlot.offset w)).permitted := by
  cases w with
  | reg r =>
    cases r with
    | qd _ | gyr _ _ | xq _ _ => exact .symm (decide_eq_true (by simp only [WordSlot.offset, Reg32.offset]; omega))
    | _ => rfl
  | lo r =>
    cases r with
    | xts i => exact .symm (decide_eq_true (by simp only [WordSlot.offset, Reg64.offset]; omega))
    | _ => rfl
  | hi r =>
    cases r with
    | xts i => exact .symm (decide_eq_true (by simp only [WordSlot.offset, Reg64.offset]; omega))
    | _ => rfl

/-- The slots a write changes, `CMD` aside, are the writable ones of rule R24. -/
theorem isOk_writeSlot {w : WordSlot} (hw : w ≠ .reg .cmd) (v : Word) (s : State) :
    (writeSlot w v s).isOk = (HostAction.regWrite (WordSlot.offset w) v).permitted := by
  cases w with
  | reg r =>
    cases r with
    | cmd => contradiction
    | qd _ | xq _ _ => exact .symm (decide_eq_false (by simp only [WordSlot.offset, Reg32.offset]; omega))
    | gyr _ _ => exact .symm (decide_eq_true (by simp only [WordSlot.offset, Reg32.offset]; omega))
    | _ => rfl
  | lo r =>
    cases r with
    | xts i => exact .symm (decide_eq_false (by simp only [WordSlot.offset, Reg64.offset]; omega))
    | _ => rfl
  | hi r =>
    cases r with
    | xts i => exact .symm (decide_eq_false (by simp only [WordSlot.offset, Reg64.offset]; omega))
    | _ => rfl

/-- An aligned offset of one of the three word regions of rule R45 selects its slot. -/
theorem wordAccess_eq_ok {off : Nat} (ha : off % 4 = 0)
    (hr : off ≤ 0x057 ∨ (0x080 ≤ off ∧ off ≤ 0x0DF) ∨ (0x100 ≤ off ∧ off ≤ 0x1BF)) :
    wordAccess off = .ok (slotAt off) := by
  have words : regionAt off = .words := by
    rcases hr with h | ⟨h, h'⟩ | ⟨h, h'⟩ <;> simp (disch := omega) only [regionAt, if_pos, if_neg]
  simp only [wordAccess, words, if_pos ha]

/-- Where no slot stands, no word read is permitted. -/
theorem regRead_not_permitted {off : Nat} {e : AccessError} (h : wordAccess off = .error e) :
    (HostAction.regRead off).permitted = false := by
  refine decide_eq_false fun ⟨ha, _, hr⟩ => ?_
  rw [wordAccess_eq_ok ha (by omega)] at h
  cases h

/-- Where no slot stands, no word write is permitted. -/
theorem regWrite_not_permitted {off : Nat} {e : AccessError} (h : wordAccess off = .error e) (v : Word) :
    (HostAction.regWrite off v).permitted = false := by
  refine decide_eq_false fun ⟨ha, hr⟩ => ?_
  rw [wordAccess_eq_ok ha (by omega)] at h
  cases h

/-! ### Byte accesses -/

/-- An access of one byte selects a buffer exactly within that buffer (rules R43 to R45). -/
theorem byteAccess_eq_ok_iff (off size : Nat) (b : Buf) :
    byteAccess off size = .ok b ↔ size = 1 ∧ Buf.base b ≤ off ∧ off < Buf.base b + b.indexBound := by
  rw [← regionAt_eq_bytes_iff]
  unfold byteAccess
  by_cases hs : size = 1
  · cases regionAt off <;> simp [hs]
  · simp [hs]

/-- An access that selects no buffer is of another size, or lies outside every buffer. -/
theorem outside_of_byteAccess {off size : Nat} {e : AccessError} (h : byteAccess off size = .error e) (b : Buf) :
    ¬ (size = 1 ∧ Buf.base b ≤ off ∧ off < Buf.base b + b.indexBound) := by
  rw [← byteAccess_eq_ok_iff, h]; nofun

theorem memRead_eq (off size : Nat) (s : State) :
    memRead off size s = answerRead ((byteAccess off size).map fun _ => .byte (s.mem.read off)) s := by
  unfold memRead
  cases byteAccess off size <;> rfl

/-- The bytes a host can read are those of the three buffers (rules R24, R45). -/
theorem isOk_byteAccess (off size : Nat) :
    (byteAccess off size).isOk = (HostAction.memRead off size).permitted := by
  cases h : byteAccess off size with
  | ok b =>
    obtain ⟨hs, hr⟩ := (byteAccess_eq_ok_iff off size b).mp h
    refine .symm (decide_eq_true ⟨hs, ?_⟩)
    cases b <;> simp only [Buf.base, Buf.indexBound] at hr <;> omega
  | error e =>
    have ht := outside_of_byteAccess h .txpay
    have hf := outside_of_byteAccess h .fbuf
    have hr := outside_of_byteAccess h .rxpay
    simp only [Buf.base, Buf.indexBound] at ht hf hr
    exact .symm (decide_eq_false (by omega))

/-- The bytes a host can write are those of `TXPAY` and `FBUF` (rules R24, R45). -/
theorem isOk_writeBuf (off size : Nat) (v : Byte) (s : State) :
    (byteAccess off size >>= fun b => writeBuf b off v s).isOk = (HostAction.memWrite off size v).permitted := by
  cases h : byteAccess off size with
  | ok b =>
    obtain ⟨hs, hr⟩ := (byteAccess_eq_ok_iff off size b).mp h
    cases b <;> simp only [Buf.base, Buf.indexBound] at hr
    case txpay => exact .symm (decide_eq_true ⟨hs, by omega⟩)
    case fbuf => exact .symm (decide_eq_true ⟨hs, by omega⟩)
    case rxpay => exact .symm (decide_eq_false (by omega))
  | error e =>
    have ht := outside_of_byteAccess h .txpay
    have hf := outside_of_byteAccess h .fbuf
    simp only [Buf.base, Buf.indexBound] at ht hf
    exact .symm (decide_eq_false (by omega))

/-! ### Every access -/

theorem isOk_map {α β : Type} (f : α → β) (d : Except AccessError α) : (d.map f).isOk = d.isOk := by
  cases d <;> rfl

theorem answersExactlyWhen_regRead (off : Nat) (s : State) :
    AnswersExactlyWhen (HostAction.regRead off).permitted (regRead off s) := by
  cases h : wordAccess off with
  | error e =>
    rw [regRead_not_permitted h, regRead_error h]
    exact answersExactlyWhen_refused e
  | ok w =>
    obtain rfl := offset_of_wordAccess off w h
    rw [regRead_offset, ← isOk_readSlot w s, ← isOk_map ReadData.word]
    exact answersExactlyWhen_answerRead _ s

theorem answersExactlyWhen_regWrite (off : Nat) (v : Word) (s : State) :
    AnswersExactlyWhen (HostAction.regWrite off v).permitted (regWrite off v s) := by
  cases h : wordAccess off with
  | error e =>
    rw [regWrite_not_permitted h, regWrite_error h]
    exact answersExactlyWhen_refused e
  | ok w =>
    obtain rfl := offset_of_wordAccess off w h
    by_cases hw : w = .reg .cmd
    · subst hw
      rw [regWrite_cmd]
      exact answersExactlyWhen_runCommand v s
    · rw [regWrite_offset hw, ← isOk_writeSlot hw v s]
      exact answersExactlyWhen_answerWrite _

theorem answersExactlyWhen_memRead (off size : Nat) (s : State) :
    AnswersExactlyWhen (HostAction.memRead off size).permitted (memRead off size s) := by
  rw [memRead_eq, ← isOk_byteAccess, ← isOk_map fun _ => ReadData.byte (s.mem.read off)]
  exact answersExactlyWhen_answerRead _ s

theorem answersExactlyWhen_memWrite (off size : Nat) (v : Byte) (s : State) :
    AnswersExactlyWhen (HostAction.memWrite off size v).permitted (memWrite off size v s) := by
  rw [← isOk_writeBuf off size v s]
  exact answersExactlyWhen_answerWrite _

/-- Settles O57: an access is performed exactly when its slot or buffer exists and allows it, and that is what the
tables permit; one case for each of the four access primitives. -/
theorem accessesAreRefusedExactlyWhenNotPermitted :
    Obligations.AccessesAreRefusedExactlyWhenNotPermitted := by
  intro a s
  cases a with
  | regRead off => exact answersExactlyWhen_regRead off s
  | regWrite off w => exact answersExactlyWhen_regWrite off w s
  | memRead off size => exact answersExactlyWhen_memRead off size s
  | memWrite off size b => exact answersExactlyWhen_memWrite off size b s

/-- Settles O54: each clause is a write of the slot that stands at the offset. -/
theorem registerWritesTakeTheLowBits : Obligations.RegisterWritesTakeTheLowBits := by
  intro s w
  exact ⟨regWrite_of_writeSlot (.reg .txhdr) rfl rfl, regWrite_of_writeSlot (.reg .txlen) rfl rfl,
    regWrite_of_writeSlot (.reg .rate) rfl rfl,
    regWrite_of_writeSlot (.lo .ts0) rfl rfl, regWrite_of_writeSlot (.hi .ts0) rfl rfl,
    regWrite_of_writeSlot (.lo .q64) rfl rfl, regWrite_of_writeSlot (.hi .q64) rfl rfl,
    fun i a => regWrite_of_writeSlot (.reg (.gyr i a)) rfl rfl⟩

/-! ### The flag words -/

/-- Rule R23: `RXVALID` is bit 0 of `STATUS`. -/
theorem statusWord_eq (s : State) : s.statusWord = if s.rxvalid then 1#32 else 0#32 := by
  unfold State.statusWord
  cases s.rxvalid <;> rfl

/-- Rule R23: the fields of a flag word do not overlap, so that the word is their sum, each at its weight. -/
theorem flagWord_eq_sum (rest mag : Bool) (axis : BitVec 2) :
    flagWord rest mag axis =
      (if rest then 1#32 else 0#32) + (if mag then 2#32 else 0#32) + 4#32 * axis.setWidth 32 := by
  revert rest mag axis; decide

/-- The components of one sample stand one word apart (rule R24). -/
theorem offset_xq (i : Fin 8) (c : Fin 4) : WordSlot.offset (.reg (.xq i c)) = 0x100 + 4 * c.val + 16 * i.val := by
  simp only [WordSlot.offset, Reg32.offset]; omega

/-- The high half of a timestamp stands one word above the low half (rule R24). -/
theorem offset_hi_xts (i : Fin 8) : WordSlot.offset (.hi (.xts i)) = 0x184 + 8 * i.val := by
  simp only [WordSlot.offset, Reg64.offset]; omega

/-- Settles O55: each clause is a read of the slot that stands at the offset; the flag words are sums of their
fields. -/
theorem registerReadsReturnTheElements : Obligations.RegisterReadsReturnTheElements := by
  intro s
  exact ⟨regRead_of_readSlot (.reg .status) rfl (congrArg Except.ok (statusWord_eq s)),
    regRead_of_readSlot (.reg .err) rfl rfl, regRead_of_readSlot (.reg .dropcnt) rfl rfl,
    regRead_of_readSlot (.reg .ulen) rfl rfl, regRead_of_readSlot (.reg .txhdr) rfl rfl,
    regRead_of_readSlot (.reg .txlen) rfl rfl, regRead_of_readSlot (.reg .dhdr) rfl rfl,
    regRead_of_readSlot (.reg .dlen) rfl rfl, regRead_of_readSlot (.reg .rxhdr) rfl rfl,
    regRead_of_readSlot (.reg .rxlen) rfl rfl, regRead_of_readSlot (.reg .rate) rfl rfl,
    regRead_of_readSlot (.lo .ts0) rfl rfl, regRead_of_readSlot (.hi .ts0) rfl rfl,
    regRead_of_readSlot (.lo .q64) rfl rfl, regRead_of_readSlot (.hi .q64) rfl rfl,
    regRead_of_readSlot (.reg (.qd 0)) rfl rfl, regRead_of_readSlot (.reg (.qd 1)) rfl rfl,
    regRead_of_readSlot (.reg (.qd 2)) rfl rfl, regRead_of_readSlot (.reg (.qd 3)) rfl rfl,
    regRead_of_readSlot (.reg .qflags) rfl (congrArg Except.ok (flagWord_eq_sum _ _ _)),
    regRead_of_readSlot (.reg .xflags) rfl (congrArg Except.ok (flagWord_eq_sum _ _ _)),
    fun i a => regRead_of_readSlot (.reg (.gyr i a)) rfl rfl,
    fun i => ⟨regRead_of_readSlot (.reg (.xq i 0)) (offset_xq i 0) rfl,
      regRead_of_readSlot (.reg (.xq i 1)) (offset_xq i 1) rfl,
      regRead_of_readSlot (.reg (.xq i 2)) (offset_xq i 2) rfl,
      regRead_of_readSlot (.reg (.xq i 3)) (offset_xq i 3) rfl, regRead_of_readSlot (.lo (.xts i)) rfl rfl,
      regRead_of_readSlot (.hi (.xts i)) (offset_hi_xts i) rfl⟩⟩

end Sys2Proof.Machine
end

section
/-!
PROOFS, family `30_encoding.md`: the decoder against the opcode map of rule R62. Where a row's mask covers a field
of the word, a word the row accepts agrees with the row's pattern in that field. Every mask covers `OPC`, and no two
patterns share it: so a word matches at most one row, which decides what it decodes to. The fields covered also tell
which words match no row (rule R64), and such a word, written to `CMD`, only sets `ERR`.
-/

namespace Sys2Proof.Machine

/-! ### A row and the fields of the words it accepts -/

/-- The bits `start … start + len - 1` of a word that a row accepts are the pattern's, where the mask covers them. -/
theorem extractLsb'_of_accepts {r : OpcodeRow} {w : Word} (h : r.accepts w) {start len : Nat}
    (hmask : r.mask.extractLsb' start len = BitVec.allOnes len) :
    w.extractLsb' start len = r.pattern.extractLsb' start len := by
  rw [← beq_iff_eq.mp h, BitVec.extractLsb'_and, hmask, BitVec.and_allOnes]

/-- Every row fixes `OPC` (rule R62). -/
theorem opc_of_accepts {r : OpcodeRow} (hr : r ∈ opcodeMap) {w : Word} (h : r.accepts w) : opc w = opc r.pattern := by
  have covered : ∀ r ∈ opcodeMap, r.mask.extractLsb' 0 8 = BitVec.allOnes 8 := by decide
  exact extractLsb'_of_accepts h (covered r hr)

/-- A word matches at most one row: no two rows share an operation code. -/
theorem row_eq_of_accepts {r r' : OpcodeRow} (hr : r ∈ opcodeMap) (hr' : r' ∈ opcodeMap) {w : Word}
    (h : r.accepts w) (h' : r'.accepts w) : r = r' := by
  have distinct : (opcodeMap.map fun r => opc r.pattern).Nodup := by decide
  exact List.inj_on_of_nodup_map distinct hr hr' ((opc_of_accepts hr h).symm.trans (opc_of_accepts hr' h'))

/-! ### What a word decodes to -/

/-- A word that a row of the map accepts is that row's command, with bits 15:8 as its immediate (rules R62, R63). -/
theorem decodeWord_of_accepts {r : OpcodeRow} (hr : r ∈ opcodeMap) {w : Word} (h : r.accepts w) :
    decodeWord w = .ok (r.instr (imm8 w)) := by
  have found : (opcodeMap.find? fun r => r.accepts w).isSome := List.find?_isSome.mpr ⟨r, hr, h⟩
  obtain ⟨r', hfind⟩ := Option.isSome_iff_exists.mp found
  have h' : r'.accepts w := by simpa only using List.find?_some hfind
  obtain rfl := row_eq_of_accepts hr (List.mem_of_find?_eq_some hfind) h h'
  simp only [decodeWord, hfind]

/-- The same for the row at a place of the map, the match as rule R62 writes it. -/
theorem decodeWord_of_row (k : Fin 7) {w : Word} (h : w &&& (opcodeMap.get k).mask = (opcodeMap.get k).pattern) :
    decodeWord w = .ok ((opcodeMap.get k).instr (imm8 w)) :=
  decodeWord_of_accepts (opcodeMap.get_mem k) (beq_iff_eq.mpr h)

/-- A word that no row of the map accepts is illegal (rule R64). -/
theorem decodeWord_of_no_row {w : Word} (h : ∀ r ∈ opcodeMap, ¬ r.accepts w) :
    decodeWord w = .error (illegalReason w) := by
  simp only [decodeWord, List.find?_eq_none.mpr h]

/-- Settles O2: one row of the map for each clause. -/
theorem wordsDecodeByTheOpcodeMap : Obligations.WordsDecodeByTheOpcodeMap := by
  intro w
  exact ⟨decodeWord_of_row 0, decodeWord_of_row 1, decodeWord_of_row 2, decodeWord_of_row 3, decodeWord_of_row 4,
    decodeWord_of_row 5, decodeWord_of_row 6⟩

/-! ### The words that match no row (rule R64) -/

/-- A word that matches no row, written to `CMD`, sets `ERR` to 4 and changes nothing else. -/
theorem regWrite_cmd_of_no_row {w : Word} (h : ∀ r ∈ opcodeMap, ¬ r.accepts w) (s : State) :
    regWrite 0x000 w s = .next { s with err := 4#8 } := by
  refine (regWrite_cmd w s).trans ?_
  simp only [runCommand, decodeWord_of_no_row h]
  rfl

/-- The rows of format `Z` accept their own pattern only, `FEED` any word that agrees with it outside `IMM8`. -/
theorem eq_or_masked_eq_of_accepts {r : OpcodeRow} (hr : r ∈ opcodeMap) {w : Word} (h : r.accepts w) :
    w ∈ [0x01#32, 0x10#32, 0x11#32, 0x13#32, 0x20#32, 0x30#32] ∨ w &&& 0xFFFF00FF#32 = 0x12#32 := by
  have rows : ∀ r ∈ opcodeMap,
      (r.mask = BitVec.allOnes 32 ∧ r.pattern ∈ [0x01#32, 0x10#32, 0x11#32, 0x13#32, 0x20#32, 0x30#32]) ∨
      (r.mask = 0xFFFF00FF#32 ∧ r.pattern = 0x12#32) := by decide
  have h : w &&& r.mask = r.pattern := beq_iff_eq.mp h
  rcases rows r hr with ⟨hm, hp⟩ | ⟨hm, hp⟩
  · rw [hm, BitVec.and_allOnes] at h
    exact .inl (h ▸ hp)
  · rw [hm, hp] at h
    exact .inr h

/-- Every row wants `RSV = 0` (rule R61). -/
theorem rsv_of_accepts {r : OpcodeRow} (hr : r ∈ opcodeMap) {w : Word} (h : r.accepts w) :
    w.extractLsb' 16 16 = 0#16 := by
  have rows : ∀ r ∈ opcodeMap,
      r.mask.extractLsb' 16 16 = BitVec.allOnes 16 ∧ r.pattern.extractLsb' 16 16 = 0#16 := by decide
  obtain ⟨hmask, hpattern⟩ := rows r hr
  exact (extractLsb'_of_accepts h hmask).trans hpattern

/-- An accepted word holds one of the seven operation codes. -/
theorem opc_mem_of_accepts {r : OpcodeRow} (hr : r ∈ opcodeMap) {w : Word} (h : r.accepts w) :
    opc w ∈ [0x01#8, 0x10#8, 0x11#8, 0x12#8, 0x13#8, 0x20#8, 0x30#8] := by
  have rows : ∀ r ∈ opcodeMap, opc r.pattern ∈ [0x01#8, 0x10#8, 0x11#8, 0x12#8, 0x13#8, 0x20#8, 0x30#8] := by decide
  exact opc_of_accepts hr h ▸ rows r hr

/-- An accepted word with an operation code of format `Z` holds `IMM8 = 0` (rule R61). -/
theorem imm8_of_accepts {r : OpcodeRow} (hr : r ∈ opcodeMap) {w : Word} (h : r.accepts w)
    (hz : opc w ∈ [0x01#8, 0x10#8, 0x11#8, 0x13#8, 0x20#8, 0x30#8]) : imm8 w = 0#8 := by
  have rows : ∀ r ∈ opcodeMap, opc r.pattern ∈ [0x01#8, 0x10#8, 0x11#8, 0x13#8, 0x20#8, 0x30#8] →
      r.mask.extractLsb' 8 8 = BitVec.allOnes 8 ∧ imm8 r.pattern = 0#8 := by decide
  obtain ⟨hmask, hpattern⟩ := rows r hr (opc_of_accepts hr h ▸ hz)
  exact (extractLsb'_of_accepts h hmask).trans hpattern

/-- Settles O5: in each clause the words match no row, by the rows' words or by the field that the words get wrong. -/
theorem illegalWordsOnlySetBadCommand : Obligations.IllegalWordsOnlySetBadCommand := by
  refine ⟨fun w s hz hfeed => ?_, fun w s hgroup => ?_, fun s => ?_⟩ <;>
    refine regWrite_cmd_of_no_row (fun r hr h => ?_) s
  · exact (eq_or_masked_eq_of_accepts hr h).elim hz hfeed
  · rcases hgroup with hrsv | hopc | ⟨hz, himm⟩
    · exact hrsv (rsv_of_accepts hr h)
    · exact hopc (opc_mem_of_accepts hr h)
    · exact himm (imm8_of_accepts hr h hz)
  · exact absurd (opc_mem_of_accepts hr h) (by decide)

end Sys2Proof.Machine
end

section
/-!
PROOFS, family `40_framer.md`, byte strings and `FENC`, `FDEC`: what a part of a byte string read from memory is,
the tests of `frame_check` by name, and the fields of the frame image that `FENC` writes and `FDEC` reads. Encode
and decode then meet in one fact: the 244 bytes of `FBUF` are a frame image exactly when each field is.
-/

namespace Sys2Proof

/-! ### Parts of a byte string -/

theorem byteAt_slice (bs : List Byte) {a b j : Nat} (h : a + j < b) : byteAt (slice bs a b) j = byteAt bs (a + j) := by
  have hj : j < b - a := by omega
  simp [byteAt, slice, List.getD_eq_getElem?_getD, hj]

theorem extractLsb'_append_low {n : Nat} (x : BitVec n) (b : Byte) : (x ++ b).extractLsb' 0 8 = b := by
  rw [BitVec.extractLsb'_append_eq_of_add_le (by omega), BitVec.extractLsb'_eq_self]

theorem extractLsb'_append_above {n : Nat} (x : BitVec n) (b : Byte) (k : Nat) :
    (x ++ b).extractLsb' (k + 8) 8 = x.extractLsb' k 8 := by
  rw [BitVec.extractLsb'_append_eq_of_le (by omega), Nat.add_sub_cancel]

/-- Little-endian extraction undoes little-endian assembly (rule R48). -/
theorem le16_fromLe16 (bs : List Byte) (h : bs.length = 2) : le16 (fromLe16 bs) = bs := by
  match bs, h with
  | [b0, b1], _ =>
    have e0 : (b1 ++ b0 : Half).extractLsb' 0 8 = b0 := extractLsb'_append_low _ _
    have e1 : (b1 ++ b0 : Half).extractLsb' 8 8 = b1 :=
      (extractLsb'_append_above _ _ 0).trans BitVec.extractLsb'_eq_self
    simp only [le16, fromLe16, byteAt, List.getD_cons_succ, List.getD_cons_zero, e0, e1]

/-- Little-endian extraction undoes little-endian assembly (rule R48). -/
theorem le32_fromLe32 (bs : List Byte) (h : bs.length = 4) : le32 (fromLe32 bs) = bs := by
  match bs, h with
  | [b0, b1, b2, b3], _ =>
    have e0 : (b3 ++ b2 ++ b1 ++ b0 : Word).extractLsb' 0 8 = b0 := extractLsb'_append_low _ _
    have e1 : (b3 ++ b2 ++ b1 ++ b0 : Word).extractLsb' 8 8 = b1 :=
      (extractLsb'_append_above _ _ 0).trans (extractLsb'_append_low _ _)
    have e2 : (b3 ++ b2 ++ b1 ++ b0 : Word).extractLsb' 16 8 = b2 :=
      (extractLsb'_append_above _ _ 8).trans <| (extractLsb'_append_above _ _ 0).trans (extractLsb'_append_low _ _)
    have e3 : (b3 ++ b2 ++ b1 ++ b0 : Word).extractLsb' 24 8 = b3 :=
      (extractLsb'_append_above _ _ 16).trans <| (extractLsb'_append_above _ _ 8).trans <|
        (extractLsb'_append_above _ _ 0).trans BitVec.extractLsb'_eq_self
    simp only [le32, fromLe32, byteAt, List.getD_cons_succ, List.getD_cons_zero, e0, e1, e2, e3]

end Sys2Proof

namespace Sys2Proof.Machine

/-! ### Byte strings read from memory -/

theorem Memory.readBytes_one (m : Memory) (a : Nat) : m.readBytes a 1 = [m.read a] := by
  simp [Memory.readBytes]

theorem Memory.readBytes_add (m : Memory) (a n k : Nat) :
    m.readBytes a (n + k) = m.readBytes a n ++ m.readBytes (a + n) k := by
  simp [Memory.readBytes, List.range_add, Function.comp_def, Nat.add_assoc]

theorem Memory.byteAt_readBytes (m : Memory) (a : Nat) {n j : Nat} (h : j < n) :
    byteAt (m.readBytes a n) j = m.read (a + j) := by
  rw [byteAt_of_lt _ _ (by simpa using h), Memory.getElem_readBytes]

theorem Memory.slice_readBytes (m : Memory) (a : Nat) {n i j : Nat} (h : j ≤ n) :
    slice (m.readBytes a n) i j = m.readBytes (a + i) (j - i) := by
  refine List.ext_getElem (by simp; omega) fun k _ _ => ?_
  simp [slice, Memory.getElem_readBytes, Nat.add_assoc]

/-- A string read from memory is `bs` exactly when each of its bytes is. -/
theorem Memory.readBytes_eq_iff (m : Memory) (a : Nat) {n : Nat} (bs : List Byte) (h : bs.length = n) :
    m.readBytes a n = bs ↔ ∀ j, j < n → m.read (a + j) = byteAt bs j := by
  constructor
  · rintro rfl j hj
    exact (Memory.byteAt_readBytes m a hj).symm
  · intro hb
    refine List.ext_getElem (by simp [h]) fun j hj hj' => ?_
    rw [Memory.getElem_readBytes, hb j (by omega), byteAt_of_lt]

theorem Memory.readBytes_eq_readBytes_iff (m m' : Memory) (a a' n : Nat) :
    m.readBytes a n = m'.readBytes a' n ↔ ∀ j, j < n → m.read (a + j) = m'.read (a' + j) := by
  rw [Memory.readBytes_eq_iff m a _ (Memory.length_readBytes m' a' n)]
  exact forall₂_congr fun j hj => by rw [Memory.byteAt_readBytes m' a' hj]

/-! ### The tests of the frame check, the first failure deciding (rule R83) -/

theorem frameCheck_badStartByte {f : List Byte} (h : byteAt f 0 ≠ Config.startByte) :
    frameCheck f = .badStartByte :=
  if_pos h

theorem frameCheck_badPayloadSize {f : List Byte} (h0 : byteAt f 0 = Config.startByte)
    (h : Config.payloadMax < frameSize f) : frameCheck f = .badPayloadSize := by
  rw [frameCheck, if_neg (not_not.mpr h0), if_pos h]

theorem frameCheck_badCrc {f : List Byte} (h0 : byteAt f 0 = Config.startByte) (h1 : frameSize f ≤ Config.payloadMax)
    (h : crc32 (crcRange f) ≠ crcField f) : frameCheck f = .badCrc := by
  rw [frameCheck, if_neg (not_not.mpr h0), if_neg (not_lt.mpr h1), if_pos h]

/-! ### The fields of the frame in `FBUF` -/

theorem State.byteAt_frame (s : State) {j : Nat} (h : j < 244) : byteAt s.frame j = s.mem.read (0x300 + j) :=
  Memory.byteAt_readBytes s.mem 0x300 h

theorem State.frameSize_frame (s : State) : frameSize s.frame = (s.mem.read 0x305).toNat :=
  congrArg BitVec.toNat (s.byteAt_frame (by omega))

theorem State.headerField_frame (s : State) : headerField s.frame = fromLe16 (s.mem.readBytes 0x306 2) :=
  congrArg fromLe16 (Memory.slice_readBytes s.mem 0x300 (by omega))

theorem State.crcField_frame (s : State) : crcField s.frame = fromLe32 (s.mem.readBytes 0x301 4) :=
  congrArg fromLe32 (Memory.slice_readBytes s.mem 0x300 (by omega))

theorem State.crcRange_frame (s : State) (h : frameSize s.frame ≤ 236) :
    crcRange s.frame = s.mem.readBytes 0x306 (2 + frameSize s.frame) := by
  refine (Memory.slice_readBytes s.mem 0x300 (by omega)).trans (congrArg _ ?_)
  omega

/-- The frame in `FBUF` passes exactly when its fields, read from memory, pass the three tests. -/
theorem State.frameCheck_frame_eq_ok_iff (s : State) :
    frameCheck s.frame = .ok ↔ s.mem.read 0x300 = 0x02#8 ∧ (s.mem.read 0x305).toNat ≤ 236 ∧
      crc32 (s.mem.readBytes 0x306 (2 + (s.mem.read 0x305).toNat)) = fromLe32 (s.mem.readBytes 0x301 4) := by
  rw [← s.frameSize_frame, ← s.crcField_frame, frameCheck_eq_ok_iff, s.byteAt_frame (by omega)]
  refine and_congr_right fun _ => and_congr_right fun h => ?_
  rw [s.crcRange_frame h]

/-! ### `FDEC` -/

/-- Code 0 is no error's (rule R160). -/
theorem ErrorCode.code_ne_zero (e : ErrorCode) : ErrorCode.code e ≠ 0#8 := by
  cases e <;> decide

theorem fdec_of_ok {s : State} (h : frameCheck s.frame = .ok) :
    fdec s = { s with dhdr := headerField s.frame, dlen := byteAt s.frame 5, err := 0#8 } := by
  simp only [fdec, h]; rfl

/-- Settles O21: each clause is a verdict of the frame check on the frame in `FBUF`. -/
theorem fdecChecksAndDecodes : Obligations.FdecChecksAndDecodes := by
  refine ⟨rfl, fun s => ?_⟩
  rw [exec_eq, after, ← s.frameSize_frame, ← s.crcField_frame, ← s.headerField_frame,
    ← s.byteAt_frame (j := 0) (by omega), ← s.byteAt_frame (j := 5) (by omega)]
  refine ⟨fun h0 => ?_, fun h0 h1 => ?_, fun h0 h1 h2 => ?_, fun h0 h1 h2 => ?_⟩
  · simp only [fdec, frameCheck_badStartByte h0]; rfl
  · simp only [fdec, frameCheck_badPayloadSize h0 h1]; rfl
  · rw [← s.crcRange_frame h1] at h2
    simp only [fdec, frameCheck_badCrc h0 h1 h2]; rfl
  · rw [← s.crcRange_frame h1] at h2
    rw [fdec_of_ok ((frameCheck_eq_ok_iff _).mpr ⟨h0, h1, h2⟩)]

/-! ### `FENC` -/

/-- The 244 bytes at an offset are a frame image exactly when each field of rule R80 stands at its place. -/
theorem readBytes_eq_frameImage_iff (m : Memory) (a : Nat) (hdr : Half) (size : Byte) (payload : List Byte)
    (h : payload.length ≤ 236) :
    m.readBytes a 244 = frameImage hdr size payload ↔
      m.read a = 0x02#8 ∧ m.readBytes (a + 1) 4 = le32 (crc32 (le16 hdr ++ payload)) ∧ m.read (a + 5) = size ∧
      m.readBytes (a + 6) 2 = le16 hdr ∧ m.readBytes (a + 8) payload.length = payload ∧
      m.readBytes (a + 8 + payload.length) (236 - payload.length) =
        List.replicate (236 - payload.length) 0x00#8 := by
  have split : m.readBytes a 244 =
      [m.read a] ++ m.readBytes (a + 1) 4 ++ [m.read (a + 5)] ++ m.readBytes (a + 6) 2
        ++ m.readBytes (a + 8) payload.length ++ m.readBytes (a + 8 + payload.length) (236 - payload.length) := by
    rw [show 244 = 1 + 4 + 1 + 2 + payload.length + (236 - payload.length) by omega]
    simp only [Memory.readBytes_add, Memory.readBytes_one]
    rw [Nat.add_assoc a 8]
  rw [split, frameImage]
  constructor
  · intro e
    obtain ⟨e, pad⟩ := List.append_inj e (by simp)
    obtain ⟨e, pay⟩ := List.append_inj e (by simp)
    obtain ⟨e, header⟩ := List.append_inj e (by simp)
    obtain ⟨e, sz⟩ := List.append_inj e (by simp)
    obtain ⟨start, crc⟩ := List.append_inj e (by simp)
    exact ⟨List.singleton_inj.mp start, crc, List.singleton_inj.mp sz, header, pay, pad⟩
  · rintro ⟨start, crc, sz, header, pay, pad⟩
    rw [start, crc, sz, header, pay, pad]
    rfl

/-- `FENC` of a size that fits writes the frame image and completes. -/
theorem fenc_of_le {s : State} (h : s.txlen.toNat ≤ 236) :
    fenc s = { s with mem := s.mem.writeBytes 0x300 (frameImage s.txhdr s.txlen s.payload) }.complete := by
  obtain ⟨h', -⟩ | ⟨-, he⟩ := fenc_cases s
  · omega
  · exact he

/-- After `FENC` the frame in `FBUF` is the image of the operands, whatever was there (rule R86). -/
theorem frame_fenc {s : State} (hm : s.mem.wf) (h : s.txlen.toNat ≤ 236) :
    (fenc s).frame = frameImage s.txhdr s.txlen s.payload := by
  have hlen := length_frameImage s.txhdr s.txlen s.payload (by simpa using h)
  have hread := Memory.readBytes_writeBytes hm 0x300 (frameImage s.txhdr s.txlen s.payload)
  rw [hlen] at hread
  rw [fenc_of_le h]
  exact hread

/-- The fields that `FENC` leaves in `FBUF` (rules R80, R81, R86). -/
theorem fenc_fields {s : State} (hm : s.mem.wf) (h : s.txlen.toNat ≤ 236) :
    (fenc s).mem.read 0x300 = 0x02#8 ∧
      (fenc s).mem.readBytes 0x301 4 = le32 (crc32 (le16 s.txhdr ++ s.payload)) ∧
      (fenc s).mem.read 0x305 = s.txlen ∧ (fenc s).mem.readBytes 0x306 2 = le16 s.txhdr ∧
      (fenc s).mem.readBytes 0x308 s.txlen.toNat = s.payload ∧
      (fenc s).mem.readBytes (0x308 + s.txlen.toNat) (236 - s.txlen.toNat) =
        List.replicate (236 - s.txlen.toNat) 0x00#8 := by
  have image := (readBytes_eq_frameImage_iff _ 0x300 _ _ _ (s.length_payload.trans_le h)).mp (frame_fenc hm h)
  rw [State.length_payload] at image
  exact image

theorem State.payload_eq_iff (s : State) (m : Memory) (a : Nat) :
    m.readBytes a s.txlen.toNat = s.payload ↔ ∀ j, j < s.txlen.toNat → m.read (a + j) = s.mem.read (0x200 + j) :=
  Memory.readBytes_eq_readBytes_iff _ _ _ _ _

theorem readBytes_eq_zeros_iff (m : Memory) (a n : Nat) :
    m.readBytes (a + n) (236 - n) = List.replicate (236 - n) 0x00#8 ↔
      ∀ j, n ≤ j → j < 236 → m.read (a + j) = 0x00#8 := by
  rw [Memory.readBytes_eq_iff _ _ _ (by simp)]
  constructor
  · intro h j hn hj
    have := h (j - n) (by omega)
    rw [byteAt_of_lt _ _ (by simp; omega), List.getElem_replicate] at this
    rwa [show a + j = a + n + (j - n) by omega]
  · intro h j hj
    rw [byteAt_of_lt _ _ (by simpa using hj), List.getElem_replicate, Nat.add_assoc]
    exact h (n + j) (by omega) (by omega)

/-- Settles O20: the fields of the image that `FENC` leaves in `FBUF`. -/
theorem fencEncodesTheFrame : Obligations.FencEncodesTheFrame := by
  refine ⟨rfl, fun s h => ?_, fun s hm h => ⟨fenc s, exec_eq .fenc s, ?_⟩⟩
  · obtain ⟨-, he⟩ | ⟨h', -⟩ := fenc_cases s
    · rw [exec_eq, after, he]; rfl
    · omega
  · obtain ⟨start, crc, size, header, pay, pad⟩ := fenc_fields hm h
    refine ⟨by rw [fenc_of_le h]; rfl, start, crc, size, header, (s.payload_eq_iff _ _).mp pay,
      (readBytes_eq_zeros_iff _ _ _).mp pad, fun a ha => ?_⟩
    rw [fenc_of_le h]
    refine Memory.read_writeBytes_outside _ _ _ _ ?_
    rw [length_frameImage _ _ _ (by simpa using h)]
    omega

/-! ### The round trip (rule R87) -/

/-- A frame that `FENC` wrote passes the frame check. -/
theorem frameCheck_fenc {s : State} (hm : s.mem.wf) (h : s.txlen.toNat ≤ 236) : frameCheck (fenc s).frame = .ok := by
  obtain ⟨start, crc, size, header, pay, -⟩ := fenc_fields hm h
  refine (State.frameCheck_frame_eq_ok_iff _).mpr ⟨start, size ▸ h, ?_⟩
  rw [size, Memory.readBytes_add, header, pay, crc, fromLe32_le32]

/-- A frame that passes is the image of what `FDEC` gives exactly when its padding is zero. -/
theorem frame_eq_frameImage_iff {s : State} (h : frameCheck s.frame = .ok) {payload : List Byte}
    (hp : s.mem.readBytes 0x308 (byteAt s.frame 5).toNat = payload) :
    s.frame = frameImage (headerField s.frame) (byteAt s.frame 5) payload ↔
      ∀ j, (byteAt s.frame 5).toNat ≤ j → j < 236 → s.mem.read (0x308 + j) = 0x00#8 := by
  obtain ⟨start, size, crc⟩ := s.frameCheck_frame_eq_ok_iff.mp h
  rw [s.byteAt_frame (j := 5) (by omega)] at hp ⊢
  have hlen : payload.length = (s.mem.read 0x305).toNat := by rw [← hp, Memory.length_readBytes]
  have header : le16 (headerField s.frame) = s.mem.readBytes 0x306 2 := by
    rw [s.headerField_frame, le16_fromLe16 _ (by simp)]
  have crcBytes : s.mem.readBytes 0x301 4 = le32 (crc32 (le16 (headerField s.frame) ++ payload)) := by
    rw [header, ← hp, ← Memory.readBytes_add _ 0x306 2, crc, le32_fromLe32 _ (by simp)]
  refine (readBytes_eq_frameImage_iff s.mem 0x300 _ _ _ (by omega)).trans ?_
  rw [← readBytes_eq_zeros_iff, hlen]
  exact ⟨fun ⟨_, _, _, _, _, pad⟩ => pad, fun pad => ⟨start, crcBytes, rfl, header.symm, hp, pad⟩⟩

/-- Settles O22: both ways the frame in `FBUF` is the image of the operands, which passes the check. -/
theorem encodeAndDecodeRoundTrip : Obligations.EncodeAndDecodeRoundTrip := by
  refine ⟨fun s hm h => ?_, fun s t hm hdec herr m hm' hpay => ?_⟩
  · obtain ⟨-, -, size, header, pay, -⟩ := fenc_fields hm h
    refine ⟨fenc s, fdec (fenc s), exec_eq .fenc s, exec_eq .fdec _, ?_⟩
    rw [fdec_of_ok (frameCheck_fenc hm h)]
    refine ⟨rfl, ?_, ((fenc s).byteAt_frame (j := 5) (by omega)).trans size, (s.payload_eq_iff _ _).mp pay⟩
    exact (State.headerField_frame _).trans (by rw [header, fromLe16_le16])
  · have hok : frameCheck s.frame = .ok := by
      obtain ⟨e, -, he⟩ | ⟨hok, -⟩ := fdec_cases s
      · rw [exec_next hdec, after, he] at herr
        exact absurd herr (ErrorCode.code_ne_zero e)
      · exact hok
    obtain rfl : t = { s with dhdr := headerField s.frame, dlen := byteAt s.frame 5, err := 0#8 } :=
      (exec_next hdec).trans (fdec_of_ok hok)
    have size : (byteAt s.frame 5).toNat ≤ 236 := ((frameCheck_eq_ok_iff _).mp hok).2.1
    refine ⟨_, exec_eq .fenc _, ?_⟩
    rw [← Memory.readBytes_eq_readBytes_iff, eq_comm]
    refine Iff.trans (Eq.congr_right (frame_fenc hm' size)) (frame_eq_frameImage_iff hok ?_)
    exact (Memory.readBytes_eq_readBytes_iff _ _ _ _ _).mpr fun j hj => (hpay j hj).symm

end Sys2Proof.Machine
end

section
/-!
PROOFS, family `40_framer.md`, the CRC (rule R82) and what it detects (rule R88). A bit of the CRC can be undone, so
a byte can, in the register and in the byte alike; a message with one byte changed therefore leaves another
register there, and no later byte brings the two together again.
-/

namespace Sys2Proof.Machine

/-! ### One bit, one byte, one message -/

theorem getLsbD_crcBit (c : Word) (i : Nat) :
    (crcBit c).getLsbD i = (c.getLsbD (1 + i) ^^ (c.getLsbD 0 && BitVec.getLsbD 0xEDB88320#32 i)) := by
  unfold crcBit
  cases c.getLsbD 0 <;> simp

/-- The bit shifted out is bit 31 of the result: the polynomial has that bit, the shifted word has not. -/
theorem crcBit_injective : Function.Injective crcBit := by
  intro c d h
  have bits (i : Nat) := congrArg (fun w : Word => w.getLsbD i) h
  simp only [getLsbD_crcBit] at bits
  have low : c.getLsbD 0 = d.getLsbD 0 := by simpa using bits 31
  refine BitVec.eq_of_getLsbD_eq fun i _ => ?_
  cases i with
  | zero => exact low
  | succ i =>
    have shifted := bits i
    rw [low] at shifted
    simpa [Nat.add_comm 1 i] using shifted

theorem crcBits_injective (n : Nat) : Function.Injective (crcBits n) := by
  induction n with
  | zero => exact Function.injective_id
  | succ n ih => exact ih.comp crcBit_injective

theorem crcByte_left_injective (m : Byte) : Function.Injective (crcByte · m) := fun _ _ h =>
  (BitVec.xor_left_inj _).mp (crcBits_injective 8 h)

theorem crcByte_right_injective (c : Word) : Function.Injective (crcByte c) := by
  intro m m' h
  have wide : m.setWidth 32 = m'.setWidth 32 := (BitVec.xor_right_inj _).mp (crcBits_injective 8 h)
  simpa using congrArg (BitVec.setWidth 8) wide

theorem foldl_crcByte_injective (m : List Byte) : Function.Injective (m.foldl crcByte) := by
  induction m with
  | nil => exact Function.injective_id
  | cons b m ih => exact ih.comp (crcByte_left_injective b)

theorem foldl_crcByte_set_ne {m : List Byte} {i : Nat} {v : Byte} (hi : i < m.length) (hv : v ≠ byteAt m i)
    (c : Word) : (m.set i v).foldl crcByte c ≠ m.foldl crcByte c := by
  induction m generalizing i c with
  | nil => simp at hi
  | cons b m ih =>
    cases i with
    | zero => exact fun h => hv (crcByte_right_injective c (foldl_crcByte_injective m h))
    | succ i => exact ih (by simpa using hi) hv _

/-- Two messages that differ in one byte have different CRCs. -/
theorem crc32_set_ne {m : List Byte} {i : Nat} {v : Byte} (hi : i < m.length) (hv : v ≠ byteAt m i) :
    crc32 (m.set i v) ≠ crc32 m :=
  fun h => foldl_crcByte_set_ne hi hv _ ((BitVec.xor_left_inj _).mp h)

/-! ### A frame with one byte changed -/

theorem byteAt_set_self {f : List Byte} {k : Nat} (v : Byte) (h : k < f.length) : byteAt (f.set k v) k = v := by
  simp [byteAt, h]

theorem byteAt_set_other (f : List Byte) {k j : Nat} (v : Byte) (h : k ≠ j) : byteAt (f.set k v) j = byteAt f j := by
  simp [byteAt, List.getD_eq_getElem?_getD, h]

/-- A slice does not see a change outside it. -/
theorem slice_set_outside (f : List Byte) {a b k : Nat} (v : Byte) (h : k < a ∨ b ≤ k) :
    slice (f.set k v) a b = slice f a b := by
  rcases h with h | h
  · rw [slice, List.drop_set_of_lt h, slice]
  · by_cases hk : k < a
    · rw [slice, List.drop_set_of_lt hk, slice]
    · rw [slice, List.drop_set, if_neg hk, List.take_set, List.set_eq_of_length_le (by simp; omega), slice]

/-- A change inside a slice is a change of the slice. -/
theorem slice_set_inside (f : List Byte) {a b k : Nat} (v : Byte) (h : a ≤ k) :
    slice (f.set k v) a b = (slice f a b).set (k - a) v := by
  rw [slice, List.drop_set, if_neg (by omega), List.take_set, slice]

theorem frameSize_set_other (f : List Byte) {k : Nat} (v : Byte) (h : k ≠ 5) : frameSize (f.set k v) = frameSize f :=
  congrArg BitVec.toNat (byteAt_set_other f v h)

theorem crcRange_set_outside (f : List Byte) {k : Nat} (v : Byte) (h : k < 5 ∨ 8 + frameSize f ≤ k) :
    crcRange (f.set k v) = crcRange f := by
  rw [crcRange, frameSize_set_other f v (by omega), slice_set_outside f v (by omega), crcRange]

theorem crcRange_set_inside (f : List Byte) {k : Nat} (v : Byte) (h : 6 ≤ k) :
    crcRange (f.set k v) = (crcRange f).set (k - 6) v := by
  rw [crcRange, frameSize_set_other f v (by omega), slice_set_inside f v h, crcRange]

theorem crcField_set_outside (f : List Byte) {k : Nat} (v : Byte) (h : k < 1 ∨ 5 ≤ k) :
    crcField (f.set k v) = crcField f :=
  congrArg fromLe32 (slice_set_outside f v h)

/-- A change of a byte changes the string. -/
theorem set_ne_self {m : List Byte} {i : Nat} {v : Byte} (hi : i < m.length) (hv : v ≠ byteAt m i) :
    m.set i v ≠ m :=
  fun h => hv ((byteAt_set_self v hi).symm.trans (congrArg (byteAt · i) h))

/-- A change of one of the four CRC bytes changes the CRC field. -/
theorem crcField_set_ne {f : List Byte} {k : Nat} {v : Byte} (hf : f.length = 244) (h1 : 1 ≤ k) (h4 : k ≤ 4)
    (hv : v ≠ byteAt f k) : crcField (f.set k v) ≠ crcField f := by
  intro h
  have changed : (slice f 1 5).set (k - 1) v ≠ slice f 1 5 := by
    refine set_ne_self (by simp; omega) ?_
    rwa [byteAt_slice f (by omega), Nat.add_sub_cancel' h1]
  have equal := congrArg le32 h
  rw [crcField, crcField, slice_set_inside f v h1, le32_fromLe32 _ (by simp; omega),
    le32_fromLe32 _ (by simp; omega)] at equal
  exact changed equal

/-- A change of a covered byte changes the CRC of the covered range. -/
theorem crc32_crcRange_set_ne {f : List Byte} {k : Nat} {v : Byte} (hf : f.length = 244)
    (hn : frameSize f ≤ Config.payloadMax) (h6 : 6 ≤ k) (hk : k < 8 + frameSize f) (hv : v ≠ byteAt f k) :
    crc32 (crcRange (f.set k v)) ≠ crc32 (crcRange f) := by
  rw [Config.payloadMax_eq] at hn
  rw [crcRange_set_inside f v h6]
  refine crc32_set_ne (by simp [crcRange]; omega) ?_
  rwa [crcRange, byteAt_slice f (by omega), Nat.add_sub_cancel' h6]

/-- Settles O23: which of the three tests of the passing frame the changed byte takes part in. -/
theorem oneByteChangesAreDetected : Obligations.OneByteChangesAreDetected := by
  intro f k v hf hok hv
  obtain ⟨start, size, crc⟩ := (frameCheck_eq_ok_iff f).mp hok
  have start' (h : k ≠ 0) : byteAt (f.set k v) 0 = Config.startByte := (byteAt_set_other f v h).trans start
  have size' (h : k ≠ 5) : frameSize (f.set k v) ≤ Config.payloadMax := (frameSize_set_other f v h).trans_le size
  refine ⟨fun h6 hk => ?_, fun hn hk => ?_, fun h0 => ?_, fun h1 h4 => ?_, fun h5 hbig => ?_⟩
  · refine frameCheck_badCrc (start' (by omega)) (size' (by omega)) ?_
    rw [crcField_set_outside f v (by omega), ← crc]
    exact crc32_crcRange_set_ne hf size h6 hk hv
  · refine (frameCheck_eq_ok_iff _).mpr ⟨start' (by omega), size' (by omega), ?_⟩
    rw [crcRange_set_outside f v (.inr hn), crcField_set_outside f v (by omega), crc]
  · subst h0
    refine frameCheck_badStartByte ?_
    rw [byteAt_set_self v (by omega), ← start]
    exact hv
  · refine frameCheck_badCrc (start' (by omega)) (size' (by omega)) ?_
    rw [crcRange_set_outside f v (by omega), crc]
    exact (crcField_set_ne hf h1 h4 hv).symm
  · subst h5
    refine frameCheck_badPayloadSize (start' (by omega)) ?_
    rwa [frameSize, byteAt_set_self v (by omega)]

end Sys2Proof.Machine
end

section
/-!
PROOFS, family `40_framer.md`, the unpacker. `FEED` by its four cases (rules R94 to R97), `RXACK` (rule R99), and the
host's loop against the source's algorithm (rule R100): the source's `drain` may be cut anywhere (`drain_append`), so
it may be cut into single bytes, and for one byte it does what one turn of the loop does.
-/

namespace Sys2Proof.Machine

/-! ### `FEED` and `RXACK` -/

/-- Settles O24: the case of `FEED` with a frame waiting. -/
theorem feedIsRefusedWhileAFrameWaits : Obligations.FeedIsRefusedWhileAFrameWaits := by
  intro b s h
  rw [exec_eq, after, feed_pending b s h]; rfl

/-- Settles O29: `RXACK` is that one update. -/
theorem rxackClearsOnlyTheFlag : Obligations.RxackClearsOnlyTheFlag :=
  ⟨rfl, fun _ => rfl⟩

theorem headerField_eq (f : List Byte) : headerField f = fromLe16 [byteAt f 6, byteAt f 7] := by
  rw [headerField, fromLe16, byteAt_slice f (by omega), byteAt_slice f (by omega)]
  rfl

theorem ulen_appendByte (b : Byte) {s : State} (hu : s.ulen.toNat ≤ 243) :
    (appendByte b s).ulen.toNat = s.ulen.toNat + 1 := by
  rw [appendByte_ulen, BitVec.toNat_add_of_lt (by rw [BitVec.toNat_ofNat]; omega)]
  rfl

/-- The last byte of a window, appended, leaves the whole window in `UBUF`. -/
theorem toList_ubuf_appendByte (b : Byte) (s : State) (hu : s.ulen.toNat = 243) :
    (appendByte b s).ubuf.toList = s.buffered ++ [b] := by
  rw [← buffered_of_full _ (ulen_appendByte_full b s hu), buffered_appendByte s b (by omega)]

/-- An emission puts the whole payload slot, padding included, in `RXPAY` (rule R97). -/
theorem readBytes_emitFrame {s : State} (hm : s.mem.wf) :
    (emitFrame s).mem.readBytes 0x400 236 = slice s.ubuf.toList 8 244 := by
  have h := Memory.readBytes_writeBytes hm 0x400 (slice s.ubuf.toList 8 244)
  rw [length_slice, Vector.length_toList] at h
  exact h

theorem read_emitFrame_outside (s : State) {a : Nat} (h : a < 0x400 ∨ 0x4EC ≤ a) :
    (emitFrame s).mem.read a = s.mem.read a :=
  Memory.read_writeBytes_outside _ _ _ _ (by simp only [Buf.base, length_slice, Vector.length_toList]; omega)

/-- Settles O27: the case of `FEED` that emits. -/
theorem feedEmitsAValidFrame : Obligations.FeedEmitsAValidFrame := by
  intro b s hm hv hu hc
  have window := toList_ubuf_appendByte b s hu
  have slot := readBytes_emitFrame (s := appendByte b s) hm
  refine ⟨feed b s, exec_eq (.feed b) s, ?_⟩
  rw [feed_emits b s hv hu hc]
  refine ⟨?_, fun j hj => ?_, fun a ha => read_emitFrame_outside (appendByte b s) ha⟩
  · rw [← headerField_eq, ← window]; rfl
  · rw [← byteAt_slice (s.buffered ++ [b]) (show 8 + j < 244 by omega), ← window, ← slot]
    exact (Memory.byteAt_readBytes _ _ hj).symm

/-- Settles O28: below a full buffer no pass has anything to do, and at a full one the first pass is the last; the four
cases of `FEED` say what a pass can do. -/
theorem feedLoopRunsAtMostOnce : Obligations.FeedLoopRunsAtMostOnce := by
  intro b s hu
  refine ⟨fun passes => ?_, fun t ht => ?_⟩
  · by_cases h : (appendByte b s).ulen.toNat < 244
    · rw [unpackLoop_below _ _ h, unpackLoop_below _ _ h]
    · have full : (appendByte b s).ulen.toNat = 244 := by
        have := ulen_appendByte b hu
        omega
      by_cases hc : frameCheck (appendByte b s).ubuf.toList = .ok
      · rw [unpackLoop_emits _ _ full hc, unpackLoop_emits 0 _ full hc]
      · rw [unpackLoop_discards _ _ full hc, unpackLoop_discards 0 _ full hc]
  · rw [exec_next ht, after]
    obtain ⟨-, he⟩ | ⟨-, -, he⟩ | ⟨-, -, -, he⟩ | ⟨hv, -, -, he⟩ := feed_cases b s hu <;> rw [he]
    · exact .inl ⟨rfl, rfl⟩
    · exact .inl ⟨rfl, rfl⟩
    · exact .inr (.inl ⟨rfl, rfl⟩)
    · exact .inr (.inr ⟨rfl, hv, rfl⟩)

/-! ### The source's algorithm, pass by pass (rule R92) -/

/-- First one part of a stream, then the next: `d` says where the first ends, `e` what follows from there. -/
def Unpacked.andThen (d e : Unpacked) : Unpacked := ⟨e.rest, d.frames ++ e.frames, d.dropped + e.dropped⟩

/-- The source stands at `buf` and has done nothing. -/
def Unpacked.start (buf : List Byte) : Unpacked := ⟨buf, [], 0⟩

/-- What one pass at a full window takes: the frame, or one byte. -/
def Unpacked.pass (buf : List Byte) : Unpacked :=
  if frameCheck (buf.take 244) = .ok then ⟨buf.drop 244, [emittedOf (buf.take 244)], 0⟩
  else ⟨buf.drop 1, [], 1⟩

theorem Unpacked.start_andThen (buf : List Byte) (d : Unpacked) : (Unpacked.start buf).andThen d = d := by
  simp [Unpacked.start, Unpacked.andThen]

theorem Unpacked.andThen_start (d : Unpacked) : d.andThen (.start d.rest) = d := by
  simp [Unpacked.start, Unpacked.andThen]

theorem Unpacked.andThen_assoc (d e f : Unpacked) : (d.andThen e).andThen f = d.andThen (e.andThen f) := by
  simp [Unpacked.andThen, Nat.add_assoc]

/-- A pass takes something. -/
theorem Unpacked.length_rest_pass {buf : List Byte} (h : 244 ≤ buf.length) :
    (Unpacked.pass buf).rest.length < buf.length := by
  unfold Unpacked.pass
  split <;> simp <;> omega

/-- What follows the window does not change the pass. -/
theorem Unpacked.pass_append {buf : List Byte} (h : 244 ≤ buf.length) (more : List Byte) :
    Unpacked.pass (buf ++ more) = (Unpacked.pass buf).andThen (.start ((Unpacked.pass buf).rest ++ more)) := by
  unfold Unpacked.pass
  rw [List.take_append_of_le_length h, List.drop_append_of_le_length h, List.drop_append_of_le_length (by omega)]
  split <;> simp [Unpacked.andThen, Unpacked.start]

theorem drainBounded_succ (n : Nat) {buf : List Byte} (h : 244 ≤ buf.length) :
    drainBounded (n + 1) buf = (Unpacked.pass buf).andThen (drainBounded n (Unpacked.pass buf).rest) := by
  rw [drainBounded, if_neg (by simpa using h), Unpacked.pass]
  split <;> simp_all [Unpacked.andThen, Nat.add_comm]

theorem drainBounded_below (n : Nat) {buf : List Byte} (h : buf.length < 244) :
    drainBounded n buf = .start buf := by
  cases n with
  | zero => rfl
  | succ n => exact if_pos h

/-- As many passes as bytes are enough: more change nothing. -/
theorem drainBounded_congr {n m : Nat} {buf : List Byte} (hn : buf.length ≤ n) (hm : buf.length ≤ m) :
    drainBounded n buf = drainBounded m buf := by
  induction n generalizing m buf with
  | zero => rw [drainBounded_below 0 (by omega), drainBounded_below m (by omega)]
  | succ n ih =>
    by_cases h : buf.length < 244
    · rw [drainBounded_below _ h, drainBounded_below m h]
    · have shorter := Unpacked.length_rest_pass (not_lt.mp h)
      obtain ⟨k, rfl⟩ : ∃ k, m = k + 1 := ⟨m - 1, by omega⟩
      rw [drainBounded_succ n (not_lt.mp h), drainBounded_succ k (not_lt.mp h), ih (m := k) (by omega) (by omega)]

theorem drain_below {buf : List Byte} (h : buf.length < 244) : drain buf = .start buf :=
  drainBounded_below _ h

theorem drain_full {buf : List Byte} (h : 244 ≤ buf.length) :
    drain buf = (Unpacked.pass buf).andThen (drain (Unpacked.pass buf).rest) := by
  have shorter := Unpacked.length_rest_pass h
  rw [drain, drainBounded_congr le_rfl (Nat.le_succ _), drainBounded_succ _ h, drain,
    drainBounded_congr shorter.le le_rfl]

/-- One window is one pass. -/
theorem drain_window {w : List Byte} (h : w.length = 244) : drain w = Unpacked.pass w := by
  rw [drain_full h.ge, drain_below (h ▸ Unpacked.length_rest_pass h.ge), Unpacked.andThen_start]

theorem drain_window_ok {w : List Byte} (h : w.length = 244) (hc : frameCheck w = .ok) :
    drain w = ⟨[], [emittedOf w], 0⟩ := by
  rw [drain_window h, Unpacked.pass, List.take_of_length_le h.le, if_pos hc, List.drop_of_length_le h.le]

theorem drain_window_not_ok {w : List Byte} (h : w.length = 244) (hc : frameCheck w ≠ .ok) :
    drain w = ⟨w.tail, [], 1⟩ := by
  rw [drain_window h, Unpacked.pass, List.take_of_length_le h.le, if_neg hc, List.drop_one]

/-- Fewer than 244 bytes are left. -/
theorem length_rest_drain (buf : List Byte) : (drain buf).rest.length < 244 := by
  induction hn : buf.length using Nat.strong_induction_on generalizing buf with
  | _ n ih =>
    by_cases hlt : buf.length < 244
    · rwa [drain_below hlt]
    · have hge : 244 ≤ buf.length := by omega
      rw [drain_full hge]
      exact ih _ (hn ▸ Unpacked.length_rest_pass hge) _ rfl

/-- The stream may be cut anywhere: drain the first part, and go on with what is left of it. -/
theorem drain_append (buf more : List Byte) :
    drain (buf ++ more) = (drain buf).andThen (drain ((drain buf).rest ++ more)) := by
  induction hn : buf.length using Nat.strong_induction_on generalizing buf with
  | _ n ih =>
    by_cases hlt : buf.length < 244
    · rw [drain_below hlt, Unpacked.start_andThen]; rfl
    · have hge : 244 ≤ buf.length := by omega
      rw [drain_full (buf := buf ++ more) (by simp; omega), Unpacked.pass_append hge, drain_full hge,
        Unpacked.andThen_assoc, Unpacked.andThen_assoc, Unpacked.start_andThen]
      exact congrArg _ (ih _ (hn ▸ Unpacked.length_rest_pass hge) _ rfl)

/-- Under any chunking the source's algorithm is one drain of the whole stream. -/
theorem sourceFeed_eq_drain (chunks : List (List Byte)) {buf : List Byte} (h : buf.length < 244) :
    sourceFeed chunks buf = drain (buf ++ chunks.flatten) := by
  induction chunks generalizing buf with
  | nil => rw [List.flatten_nil, List.append_nil, drain_below h]; rfl
  | cons chunk chunks ih =>
    rw [List.flatten_cons, ← List.append_assoc, drain_append, ← ih (length_rest_drain _)]
    rfl

/-! ### The host's loop -/

/-- The states between two turns of `FEEDA`: no frame waits. -/
structure State.BetweenTurns (s : State) : Prop where
  memWf : s.mem.wf
  idle : s.rxvalid = false
  ulenBound : s.ulen.toNat ≤ 243

/-- What the host has taken and where the block stands, from `s`, is what the source's algorithm answers. -/
structure MatchesSource (s : State) (r : State × List Emitted) (d : Unpacked) : Prop where
  ready : r.1.BetweenTurns
  frames : r.2 = d.frames
  rest : r.1.buffered = d.rest
  dropcnt : r.1.dropcnt = s.dropcnt + BitVec.ofNat 32 d.dropped

theorem matchesSource_start {s : State} (h : s.BetweenTurns) : MatchesSource s (s, []) (.start s.buffered) :=
  ⟨h, rfl, rfl, (BitVec.add_zero _).symm⟩

theorem MatchesSource.andThen {s : State} {r q : State × List Emitted} {d e : Unpacked}
    (h : MatchesSource s r d) (h' : MatchesSource r.1 q e) :
    MatchesSource s (q.1, r.2 ++ q.2) (d.andThen e) where
  ready := h'.ready
  frames := by rw [h.frames, h'.frames]; rfl
  rest := h'.rest
  dropcnt := by rw [h'.dropcnt, h.dropcnt, Unpacked.andThen, BitVec.ofNat_add, BitVec.add_assoc]

theorem State.BetweenTurns.length_buffered {s : State} (h : s.BetweenTurns) : s.buffered.length = s.ulen.toNat :=
  State.length_buffered s (h.ulenBound.trans (by omega))

theorem feedAck_of_idle {b : Byte} {s : State} (h : (feed b s).rxvalid = false) : feedAck b s = (feed b s, []) :=
  if_neg (by simp [h])

theorem feedAck_of_waiting {b : Byte} {s : State} (h : (feed b s).rxvalid = true) :
    feedAck b s = (rxack (feed b s), [(feed b s).waiting]) :=
  if_pos h

/-- What waits after an emission is the frame of the window. -/
theorem waiting_emitFrame {s : State} (hm : s.mem.wf) : (emitFrame s).waiting = emittedOf s.ubuf.toList :=
  congrArg (Emitted.mk _ _) (readBytes_emitFrame hm)

/-- One turn of the loop is the source's algorithm on the buffered bytes and the byte fed. -/
theorem feedAck_matches_drain (b : Byte) {s : State} (h : s.BetweenTurns) :
    MatchesSource s (feedAck b s) (drain (s.buffered ++ [b])) := by
  have hlen : (s.buffered ++ [b]).length = s.ulen.toNat + 1 := by simp [h.length_buffered]
  have hbuf := buffered_appendByte s b h.ulenBound
  obtain ⟨hv, -⟩ | ⟨hv, hu, he⟩ | ⟨hv, hu, hc, he⟩ | ⟨hv, hu, hc, he⟩ := feed_cases b s h.ulenBound
  · exact absurd (h.idle.symm.trans hv) (by decide)
  · rw [feedAck_of_idle (he ▸ hv), he, drain_below (by omega), ← hbuf]
    exact ⟨⟨h.memWf, hv, (ulen_appendByte b h.ulenBound).trans_le hu⟩, rfl, rfl, (BitVec.add_zero _).symm⟩
  · rw [feedAck_of_idle (he ▸ hv), he, drain_window_not_ok (by omega) hc, ← hbuf]
    have full := ulen_appendByte_full b s hu
    refine ⟨⟨h.memWf, hv, ?_⟩, rfl, buffered_discardOne _ (by omega) (by omega), rfl⟩
    simp [hu]
  · rw [feedAck_of_waiting (he ▸ rfl), he, drain_window_ok (by omega) hc, ← toList_ubuf_appendByte b s hu]
    refine ⟨⟨Memory.wf_writeBytes h.memWf _ _, rfl, Nat.zero_le _⟩, ?_, rfl, (BitVec.add_zero _).symm⟩
    exact congrArg (fun e => [e]) (waiting_emitFrame (s := appendByte b s) h.memWf)

theorem feedAll_matches_drain (bytes : List Byte) {s : State} (h : s.BetweenTurns) :
    MatchesSource s (feedAll bytes s) (drain (s.buffered ++ bytes)) := by
  induction bytes generalizing s with
  | nil =>
    rw [List.append_nil, drain_below (h.length_buffered.trans_lt (Nat.lt_succ_of_le h.ulenBound))]
    exact matchesSource_start h
  | cons b bytes ih =>
    have turn := feedAck_matches_drain b h
    rw [List.append_cons, drain_append, ← turn.rest]
    exact turn.andThen (ih turn.ready)

/-- Settles O30: the loop and the source's algorithm both drain the buffered bytes and the stream. -/
theorem chunkingDoesNotMatter : Obligations.ChunkingDoesNotMatter := by
  intro s chunks hm hv hu
  have h : s.BetweenTurns := ⟨hm, hv, hu⟩
  have loop := feedAll_matches_drain chunks.flatten h
  rw [← sourceFeed_eq_drain chunks (h.length_buffered.trans_lt (Nat.lt_succ_of_le hu))] at loop
  exact ⟨loop.frames, loop.rest, loop.dropcnt⟩

end Sys2Proof.Machine
end

section
/-!
PROOFS, family `41_quaternion.md`: `QDEC`. The arithmetic of the decoder under `NUM = binary32` with its constants as
words, the table of rule R116 as one row for each axis, and the state `QDEC` ends in.
-/

namespace Sys2Proof.Machine

/-! ### The arithmetic under `NUM = binary32` -/

/-- A stored component (rule R115), the constants `K1` and `K2` as the words rule R111 rounds them to. -/
theorem dequant_num (r : BitVec 20) :
    dequant num r = num.fsub (num.fdiv (num.i2f (r.toNat : Int)) 0x493504E8#32) 0x3F3504F3#32 := rfl

/-- The omitted component (rule R117): the root of 1 less the stored squares, summed in field order, clamped to +0. -/
theorem omitted_num (c0 c1 c2 : F32) :
    omitted num c0 c1 c2 =
      let d := num.fsub 0x3F800000#32 (num.fadd (num.fadd (num.fmul c0 c0) (num.fmul c1 c1)) (num.fmul c2 c2))
      if num.flt0 d then 0x00000000#32 else num.fsqrt d := rfl

/-! ### The table of rule R116 -/

/-- The quaternion with every component where the table of rule R116 has it for the axis. -/
def placeQuat {F : Type} (axis : BitVec 2) (m c0 c1 c2 : F) : Quat F :=
  let comp := placeComponent axis m c0 c1 c2
  ⟨comp 0#2, comp 1#2, comp 2#2, comp 3#2⟩

section
variable {F : Type} (m c0 c1 c2 : F)

theorem placeQuat_zero : placeQuat 0#2 m c0 c1 c2 = ⟨m, c2, c1, c0⟩ := rfl

theorem placeQuat_one : placeQuat 1#2 m c0 c1 c2 = ⟨c0, m, c2, c1⟩ := rfl

theorem placeQuat_two : placeQuat 2#2 m c0 c1 c2 = ⟨c1, c0, m, c2⟩ := rfl

theorem placeQuat_three : placeQuat 3#2 m c0 c1 c2 = ⟨c2, c1, c0, m⟩ := rfl

end

/-- A word decodes to its components, placed as its axis says (rule R118). -/
theorem q3Decode_q_of_axis {F : Type} (N : Num F) {w : DWord} {axis : BitVec 2} (h : axisField w = axis) :
    (q3Decode N w).q =
      placeQuat axis
        (omitted N (dequant N (rawField0 w)) (dequant N (rawField1 w)) (dequant N (rawField2 w)))
        (dequant N (rawField0 w)) (dequant N (rawField1 w)) (dequant N (rawField2 w)) :=
  h ▸ rfl

/-! ### The command -/

/-- `QDEC` changes nothing but its result elements and `ERR`. -/
theorem qdec_frame (s : State) :
    qdec s =
      { s with
        qd := (q3Decode num s.q64).q, qrest := restField s.q64, qmag := magField s.q64, qaxis := axisField s.q64
        err := 0#8 } := rfl

/-- Settles O34: `QD` is the quaternion `Q64` decodes to, which is one row of the table for each axis. -/
theorem qdecPlacesTheComponents : Obligations.QdecPlacesTheComponents := by
  refine ⟨decodeWord_of_row 5 rfl, fun s => ?_⟩
  intro stored c0 c1 c2 d m axis
  have placed : ∀ {a : BitVec 2}, axis = a → (q3Decode num s.q64).q = placeQuat a m c0 c1 c2 := by
    intro a h
    rw [q3Decode_q_of_axis num h, omitted_num, dequant_num, dequant_num, dequant_num]
    rfl
  refine ⟨(q3Decode num s.q64).q, ?_, fun h => ?_, fun h => ?_, fun h => ?_, fun h => ?_⟩
  · rw [exec_eq, after, qdec_frame]
    rfl
  · exact (placed h).trans (placeQuat_zero ..)
  · exact (placed h).trans (placeQuat_one ..)
  · exact (placed h).trans (placeQuat_two ..)
  · exact (placed h).trans (placeQuat_three ..)

end Sys2Proof.Machine
end

section
/-!
PROOFS, family `42_extrapolation.md`: `XTRAP`. The table of rule R132 as one row for each legal rate, what `XTRAP` does
at a legal and at any other rate, one step of the recurrence on a triplet of words, and which counts it reads.
-/

namespace Sys2Proof.Machine

/-! ### The rates (rules R131, R132) -/

/-- The rate in hertz. -/
def SampleRate.hz : SampleRate → Nat
  | .hz1   => 1
  | .hz10  => 10
  | .hz25  => 25
  | .hz50  => 50
  | .hz100 => 100
  | .hz200 => 200

/-- The row of rule R132: the rate in hertz, its period in nanoseconds, its half period as rule R111 rounds it. -/
def SampleRate.row (r : SampleRate) : Nat × Nat × Word :=
  (SampleRate.hz r, SampleRate.periodNs r, num.fconst (.halfPeriod r))

theorem ofByte_of_toNat {b : Byte} {r : SampleRate} (h : b.toNat = SampleRate.hz r) : SampleRate.ofByte b = some r := by
  obtain rfl : b = BitVec.ofNat 8 (SampleRate.hz r) := by rw [← h, BitVec.ofNat_toNat, BitVec.setWidth_eq]
  cases r <;> rfl

theorem ofByte_of_toNat_notMem {b : Byte} (h : b.toNat ∉ [1, 10, 25, 50, 100, 200]) : SampleRate.ofByte b = none :=
  (ofByte_eq_none_iff b).mpr fun hb => h (List.mem_map_of_mem (f := BitVec.toNat) hb)

theorem exists_hz_eq_of_mem {n : Nat} (h : n ∈ [1, 10, 25, 50, 100, 200]) : ∃ r : SampleRate, SampleRate.hz r = n := by
  have rates : n ∈ [SampleRate.hz1, .hz10, .hz25, .hz50, .hz100, .hz200].map SampleRate.hz := h
  obtain ⟨r, -, hr⟩ := List.mem_map.mp rates
  exact ⟨r, hr⟩

/-- The periods are whole numbers of nanoseconds. -/
theorem periodNs_eq_div (r : SampleRate) : (SampleRate.periodNs r : Int) = 10 ^ 9 / (SampleRate.hz r : Int) := by
  cases r <;> rfl

/-! ### The command -/

theorem exec_xtrap_of_rate {s : State} {r : SampleRate} (h : SampleRate.ofByte s.rate = some r) :
    exec .xtrap s = .next (extrapolate r s) := by
  rw [exec_eq, after, xtrap, h]

/-- Rules R131 and R165: at a rate not in the table only `ERR` changes. -/
theorem exec_xtrap_of_no_rate {s : State} (h : SampleRate.ofByte s.rate = none) :
    exec .xtrap s = .next { s with err := 5#8 } := by
  rw [exec_eq, after, xtrap, h]; rfl

/-! ### The recurrence (rule R137) -/

theorem isZero_countsOf (g : Vector Half 3) :
    (countsOf g).isZero = true ↔ g[0] = 0#16 ∧ g[1] = 0#16 ∧ g[2] = 0#16 := by
  have zero : ∀ v : Half, s16 v = 0 ↔ v = 0#16 := fun _ => BitVec.toInt_inj (y := 0#16)
  simp only [Counts.isZero, countsOf, decide_eq_true_eq, zero]

/-- One step of the recurrence on a triplet of words (rules R133, R137). -/
theorem nextSample_countsOf {F : Type} (N : Num F) (h : F) (prev : Quat F) (g : Vector Half 3) :
    nextSample N h prev (countsOf g) =
      let rateOfCount := fun c : Half => N.fmul (N.i2f c.toInt) (N.fconst .gyrk)
      if g[0] = 0#16 ∧ g[1] = 0#16 ∧ g[2] = 0#16 then prev
      else normalize N (hamilton N prev (deltaQ N (rateOfCount g[0]) (rateOfCount g[1]) (rateOfCount g[2]) h)) := by
  simp only [nextSample, isZero_countsOf]
  rfl

/-- `XQ[i+1]` follows from `XQ[i]` and the triplet `GYR[i+1]`. -/
theorem extrapolate_xq_succ (r : SampleRate) (s : State) (i : Nat) (hi : i + 1 < 8) :
    (extrapolate r s).xq[i + 1] =
      nextSample num (num.fconst (.halfPeriod r)) (extrapolate r s).xq[i] (countsOf s.gyr[i + 1]) := by
  rw [extrapolate_xq, extrapolate_xq, sample_succ, State.counts_eq]

/-- Settles O39: a row of the table is the row of one legal rate, at which `XTRAP` leaves the samples of the
recurrence. -/
theorem xtrapFollowsTheRecurrence : Obligations.XtrapFollowsTheRecurrence := by
  refine ⟨decodeWord_of_row 6 rfl, fun s h => exec_xtrap_of_no_rate (ofByte_of_toNat_notMem h), ?_⟩
  intro s rate period half hrow hrate
  have rows : (rate, period, half) ∈
      [SampleRate.hz200, .hz100, .hz50, .hz25, .hz10, .hz1].map SampleRate.row := hrow
  obtain ⟨r, -, ⟨⟩⟩ := List.mem_map.mp rows
  refine ⟨extrapolate r s, exec_xtrap_of_rate (ofByte_of_toNat hrate), extrapolate_frame r s, ?_, fun i => ?_,
    fun i => extrapolate_xts r s i i.isLt⟩
  · rw [extrapolate_xq, sample_zero]
  · exact (extrapolate_xq_succ r s i (by omega)).trans (nextSample_countsOf ..)

/-! ### Timestamps (rule R139) -/

theorem timestamp_zero (ts0 : DWord) (r : SampleRate) : timestamp ts0 r 0 = ts0 := by
  simp [timestamp]

theorem toInt_timestamp (ts0 : DWord) (r : SampleRate) (i : Nat) :
    (timestamp ts0 r i).toInt = (ts0.toInt + (i : Int) * (10 ^ 9 / (SampleRate.hz r : Int))).bmod (2 ^ 64) := by
  rw [timestamp, BitVec.toInt_add, BitVec.toInt_ofNat', Int.add_bmod_bmod, Nat.cast_mul, periodNs_eq_div]

/-- Settles O40: each timestamp is `TS0` and a whole number of periods, read as an integer. -/
theorem timestampsCountUpByThePeriod : Obligations.TimestampsCountUpByThePeriod := by
  intro s hs
  obtain ⟨r, hr⟩ := exists_hz_eq_of_mem hs
  refine ⟨extrapolate r s, exec_xtrap_of_rate (ofByte_of_toNat hr.symm), ?_, fun i => ?_⟩
  · rw [extrapolate_xts, timestamp_zero]
  · rw [Fin.getElem_fin, extrapolate_xts, toInt_timestamp, hr]

/-! ### The counts of sample 0 (rule R140) -/

theorem counts_set_zero (s : State) (g : Vector Half 3) {j : Nat} (hj : 1 ≤ j) :
    State.counts { s with gyr := s.gyr.set 0 g } j = s.counts j := by
  by_cases h : j < 8
  · rw [State.counts_eq _ j h, State.counts_eq s j h, Vector.getElem_set_ne _ _ (by omega)]
  · rw [State.counts, State.counts, dif_neg h, dif_neg h]

theorem extrapolate_xq_set_zero (r : SampleRate) (s : State) (g : Vector Half 3) :
    (extrapolate r { s with gyr := s.gyr.set 0 g }).xq = (extrapolate r s).xq := by
  refine Vector.ext fun i hi => ?_
  rw [extrapolate_xq, extrapolate_xq]
  exact sample_congr _ _ _ _ _ i fun j hj _ => counts_set_zero s g hj

/-- Settles O42: at a legal rate the samples read the counts from 1 on only and nothing else reads a count; at any
other rate no result changes. -/
theorem gyroOfSampleZeroIsIgnored : Obligations.GyroOfSampleZeroIsIgnored := by
  intro s g
  cases h : SampleRate.ofByte s.rate with
  | none =>
    exact ⟨_, _, exec_xtrap_of_no_rate h, exec_xtrap_of_no_rate h, rfl, rfl, rfl, rfl, rfl, rfl⟩
  | some r =>
    exact ⟨_, _, exec_xtrap_of_rate h, exec_xtrap_of_rate h, extrapolate_xq_set_zero r s g, rfl, rfl, rfl, rfl, rfl⟩

end Sys2Proof.Machine
end

section
/-!
PROOFS, family `60_exceptions.md`: the error of a rate that is not in the table.
-/

namespace Sys2Proof.Machine

/-- Settles O38: a byte that is none of the six rates selects no sample rate, and `XTRAP` then raises its error and
leaves the rest. -/
theorem illegalRatesAreRefused : Obligations.IllegalRatesAreRefused := by
  intro s hrate
  have noRate : SampleRate.ofByte s.rate = none := ofByte_of_toNat_notMem hrate
  exact exec_xtrap_of_no_rate noRate

end Sys2Proof.Machine
end

section
/-!
PROOFS, family `other`, encoding and assembly: decode and encode undo each other (rules R61 to R63), and what the
command statements expand to (rule R65). The three fields of a command word are the whole word, and a word that a row
accepts agrees with the row's command in each of them.
-/

namespace Sys2Proof.Machine

/-! ### Decode after encode -/

/-- Every command's word matches a row that stands for the command. -/
theorem matchesRow (i : Instr) : Laws.MatchesRow.Statement i := by
  cases i with
  | reset => exact Laws.MatchesRow.reset
  | fenc => exact Laws.MatchesRow.fenc
  | fdec => exact Laws.MatchesRow.fdec
  | feed b => exact Laws.MatchesRow.feed b
  | rxack => exact Laws.MatchesRow.rxack
  | qdec => exact Laws.MatchesRow.qdec
  | xtrap => exact Laws.MatchesRow.xtrap

theorem decodeWord_encodeWord (i : Instr) : decodeWord (encodeWord i) = .ok i := by
  obtain ⟨r, hr, haccepts, hinstr⟩ := matchesRow i
  rw [decodeWord_of_accepts hr haccepts, hinstr]

/-- The bytes of a word, first in a string, decode as the word and leave the rest. -/
theorem decode_le32_append (w : Word) (rest : List Byte) :
    decode (le32 w ++ rest) = (decodeWord w).map fun i => (i, rest) := by
  have bytes : decode (le32 w ++ rest) =
      match decodeWord (fromLe32 (le32 w)) with
      | .ok i => .ok (i, rest)
      | .error e => .error e := rfl
  rw [bytes, fromLe32_le32]
  cases decodeWord w <;> rfl

/-- Settles O3: the four bytes are those of the command's word, which a row of the map accepts. -/
theorem decodeUndoesEncode : Obligations.DecodeUndoesEncode := by
  intro i rest _
  rw [encode, decode_le32_append, decodeWord_encodeWord]; rfl

/-! ### Encode after decode -/

/-- A command word is its three fields (rule R61). -/
theorem append_fields (w : Word) : w.extractLsb' 16 16 ++ imm8 w ++ opc w = w := by
  have high : w.extractLsb' 16 16 ++ imm8 w = (w.extractLsb' 8 24 : BitVec (16 + 8)) :=
    BitVec.extractLsb'_append_extractLsb'_eq_extractLsb' (by omega)
  rw [high]
  exact (BitVec.extractLsb'_append_extractLsb'_eq_extractLsb' (by omega)).trans BitVec.extractLsb'_eq_self

/-- Each row stands for a command with the row's operation code. -/
theorem opc_instr {r : OpcodeRow} (hr : r ∈ opcodeMap) (b : Byte) : (r.instr b).opc = opc r.pattern := by
  have rows : ∀ r ∈ opcodeMap, ∀ b, (r.instr b).opc = opc r.pattern := by
    simp only [opcodeMap, List.forall_mem_cons, List.not_mem_nil, false_imp_iff, implies_true, and_true]
    exact ⟨fun _ => rfl, fun _ => rfl, fun _ => rfl, fun _ => rfl, fun _ => rfl, fun _ => rfl, fun _ => rfl⟩
  exact rows r hr b

/-- `FEED` takes the immediate of its word, and every other command's is 0 (rule R63). -/
theorem imm8_instr {r : OpcodeRow} (hr : r ∈ opcodeMap) {w : Word} (h : r.accepts w) :
    (r.instr (imm8 w)).imm8 = imm8 w := by
  have rows : ∀ r ∈ opcodeMap, (∀ b, (r.instr b).imm8 = b) ∨
      (opc r.pattern ∈ [0x01#8, 0x10#8, 0x11#8, 0x13#8, 0x20#8, 0x30#8] ∧ ∀ b, (r.instr b).imm8 = 0#8) := by
    simp only [opcodeMap, List.forall_mem_cons, List.not_mem_nil, false_imp_iff, implies_true, and_true]
    exact ⟨.inr ⟨by decide, fun _ => rfl⟩, .inr ⟨by decide, fun _ => rfl⟩, .inr ⟨by decide, fun _ => rfl⟩,
      .inl fun _ => rfl, .inr ⟨by decide, fun _ => rfl⟩, .inr ⟨by decide, fun _ => rfl⟩,
      .inr ⟨by decide, fun _ => rfl⟩⟩
  obtain hfeed | ⟨hz, hzero⟩ := rows r hr
  · exact hfeed _
  · rw [hzero, imm8_of_accepts hr h (opc_of_accepts hr h ▸ hz)]

/-- Settles O4: a legal word agrees with its command's word in each field. -/
theorem encodeUndoesDecode : Obligations.EncodeUndoesDecode := by
  intro w i h
  by_cases accepted : ∃ r ∈ opcodeMap, r.accepts w
  · obtain ⟨r, hr, haccepts⟩ := accepted
    obtain rfl : r.instr (imm8 w) = i := Except.ok.inj ((decodeWord_of_accepts hr haccepts).symm.trans h)
    rw [encodeWord, imm8_instr hr haccepts, opc_instr hr, ← opc_of_accepts hr haccepts, ← rsv_of_accepts hr haccepts,
      append_fields]
  · rw [decodeWord_of_no_row fun r hr haccepts => accepted ⟨r, hr, haccepts⟩] at h
    cases h

/-- Settles O1: the eight legal words are those of their commands, and the other three match no row. -/
theorem writtenWordsDecode : Obligations.WrittenWordsDecode :=
  ⟨decodeWord_encodeWord .reset, decodeWord_encodeWord .fenc, decodeWord_encodeWord .fdec,
    decodeWord_encodeWord (.feed 0x00#8), decodeWord_encodeWord (.feed 0xFF#8), decodeWord_encodeWord .rxack,
    decodeWord_encodeWord .qdec, decodeWord_encodeWord .xtrap, rfl, rfl, rfl⟩

/-! ### The command statements (rule R65) -/

theorem expand_command (i : Instr) :
    Statement.expand (.command i) = some [.regWrite 0x000 (encodeWord i)] := by
  cases i <;> rfl

theorem encodeWord_feed {b : Nat} (h : b ≤ 255) :
    encodeWord (.feed (BitVec.ofNat 8 b)) = BitVec.ofNat 32 (0x12 + 256 * b) := by
  have bytes : ∀ c : Fin 256, encodeWord (.feed (BitVec.ofNat 8 c)) = BitVec.ofNat 32 (0x12 + 256 * c) := by
    decide +kernel
  exact bytes ⟨b, by omega⟩

theorem expand_feed (b : Nat) : Statement.expand (.feed b) =
    if b ≤ 255 then some [.regWrite 0x000 (encodeWord (.feed (BitVec.ofNat 8 b)))] else none := by
  by_cases h : b ≤ 255
  · simp [Statement.expand, Statement.wellFormed, isByte, h]; rfl
  · simp [Statement.expand, Statement.wellFormed, isByte, h]

theorem expand_cmdw {w : Nat} (h : w < 2 ^ 32) :
    Statement.expand (.cmdw w) = some [.regWrite 0x000 (BitVec.ofNat 32 w)] :=
  if_pos (decide_eq_true h)

/-- Settles O6: each command statement is the write of its command's word. -/
theorem commandStatementsAssemble : Obligations.CommandStatementsAssemble := by
  refine ⟨expand_command .reset, expand_command .fenc,
    expand_command .fdec, fun b h => ?_, fun b h => ?_, expand_command .rxack,
    expand_command .qdec, expand_command .xtrap, fun w h => expand_cmdw h⟩
  · rw [expand_feed, if_pos h, encodeWord_feed h]
  · rw [expand_feed, if_neg (by omega)]

end Sys2Proof.Machine
end

section
/-!
PROOFS, family `other`, steps: what the unpacker's loop leaves alone in any state, the frame of each command (rules
R12, R24, R161, R162), the invariant, the drop counter, and the stale bytes of `UBUF` (rules R16, R27).
-/

namespace Sys2Proof.Machine

/-! ### What the unpacker's loop leaves alone, in any state -/

/-- `t` is `s` but for the elements that `FEED` writes, and in memory but for `RXPAY`; a frame that waits, waits on. -/
structure State.UnpackedFrom (s t : State) : Prop where
  others : t = { s with
    ubuf := t.ubuf, ulen := t.ulen, dropcnt := t.dropcnt, rxvalid := t.rxvalid, rxhdr := t.rxhdr, rxlen := t.rxlen
    mem := t.mem, err := t.err }
  outside : ∀ a, a < 0x400 ∨ 0x4EC ≤ a → t.mem.read a = s.mem.read a
  waits : s.rxvalid = true → t.rxvalid = true

theorem State.UnpackedFrom.refl (s : State) : s.UnpackedFrom s := ⟨rfl, fun _ _ => rfl, id⟩

theorem State.UnpackedFrom.trans {s t u : State} (h : s.UnpackedFrom t) (h' : t.UnpackedFrom u) :
    s.UnpackedFrom u where
  others := by rw [h'.others, h.others]
  outside a ha := (h'.outside a ha).trans (h.outside a ha)
  waits hs := h'.waits (h.waits hs)

theorem unpackedFrom_setErr (s : State) (c : Byte) : s.UnpackedFrom (s.setErr c) := ⟨rfl, fun _ _ => rfl, id⟩

theorem unpackedFrom_appendByte (b : Byte) (s : State) : s.UnpackedFrom (appendByte b s) := ⟨rfl, fun _ _ => rfl, id⟩

theorem unpackedFrom_discardOne (s : State) : s.UnpackedFrom (discardOne s) := ⟨rfl, fun _ _ => rfl, id⟩

theorem unpackedFrom_emitFrame (s : State) : s.UnpackedFrom (emitFrame s) :=
  ⟨rfl, fun _ ha => read_emitFrame_outside s ha, fun _ => rfl⟩

theorem unpackedFrom_unpackLoop (passes : Nat) (s : State) : s.UnpackedFrom (unpackLoop passes s) := by
  induction passes generalizing s with
  | zero => exact .refl s
  | succ passes ih =>
    rw [unpackLoop]
    split
    · exact .refl s
    · split
      · exact unpackedFrom_emitFrame s
      all_goals exact (unpackedFrom_discardOne s).trans (ih _)

/-- Everything `FEED` can do, in any state: report a waiting frame, or complete with the unpacker's elements changed. -/
theorem feed_cases_any (b : Byte) (s : State) :
    feed b s = s.raise .rxPending ∨ ((feed b s).err = 0#8 ∧ s.UnpackedFrom (feed b s)) := by
  unfold feed
  split
  · exact .inl rfl
  · exact .inr ⟨rfl, ((unpackedFrom_appendByte b s).trans (unpackedFrom_unpackLoop _ _)).trans
      (unpackedFrom_setErr _ _)⟩

/-! ### What each command ends with -/

/-- `XTRAP` refuses the rate or reconstructs the samples. -/
theorem xtrap_cases (s : State) : xtrap s = s.raise .badRate ∨ ∃ r, xtrap s = extrapolate r s := by
  unfold xtrap
  split
  · exact .inl rfl
  · exact .inr ⟨_, rfl⟩

/-- The errors each command can raise (the table of rule R162). -/
def Instr.errors : Instr → List ErrorCode
  | .fenc => [.badPayloadSize]
  | .fdec => [.badStartByte, .badPayloadSize, .badCrc]
  | .feed _ => [.rxPending]
  | .xtrap => [.badRate]
  | .reset | .rxack | .qdec => []

/-- A command raises one of its own errors, or it completes (rules R161, R162). -/
theorem after_raises_or_completes (i : Instr) (s : State) :
    (∃ e ∈ Instr.errors i, after i s = s.raise e) ∨ (after i s).err = 0#8 := by
  cases i with
  | reset | rxack | qdec => exact .inr rfl
  | fenc =>
    obtain ⟨-, h⟩ | ⟨-, h⟩ := fenc_cases s
    · exact .inl ⟨.badPayloadSize, by decide, h⟩
    · exact .inr (congrArg State.err h)
  | fdec =>
    rw [after, fdec]
    split
    · exact .inl ⟨.badStartByte, by decide, rfl⟩
    · exact .inl ⟨.badPayloadSize, by decide, rfl⟩
    · exact .inl ⟨.badCrc, by decide, rfl⟩
    · exact .inr rfl
  | feed b =>
    obtain h | ⟨h, -⟩ := feed_cases_any b s
    · exact .inl ⟨.rxPending, List.mem_singleton_self _, h⟩
    · exact .inr h
  | xtrap =>
    obtain h | ⟨r, h⟩ := xtrap_cases s
    · exact .inl ⟨.badRate, by decide, h⟩
    · exact .inr (congrArg State.err h)

/-- Settles O14: an error is raised, and raising writes `ERR` only. -/
theorem errorsAreAllOrNothing : Obligations.ErrorsAreAllOrNothing := by
  intro i s t h herr
  obtain rfl := exec_next h
  obtain ⟨e, -, he⟩ | hok := after_raises_or_completes i s
  · rw [he]; rfl
  · exact absurd hok herr

/-- Settles O15: the codes of the errors each command raises, and 0. -/
theorem commandsEndWithTheirOwnCodes : Obligations.CommandsEndWithTheirOwnCodes := by
  intro i s t h
  obtain rfl := exec_next h
  have own : (after i s).err ∈ 0#8 :: (Instr.errors i).map ErrorCode.code := by
    obtain ⟨e, he, h⟩ | hok := after_raises_or_completes i s
    · rw [h]
      exact List.mem_cons_of_mem _ (List.mem_map_of_mem he)
    · exact hok ▸ List.mem_cons_self
  cases i <;> exact own

/-- Settles O9. -/
theorem everyCommandEndsInANextState : Obligations.EveryCommandEndsInANextState :=
  fun i s => ⟨after i s, exec_eq i s⟩

/-! ### What each command writes (rules R12, R24) -/

theorem fenc_frame (s : State) : ∃ m e, fenc s = { s with mem := m, err := e } ∧
    ∀ a, a < 0x300 ∨ 0x3F4 ≤ a → m.read a = s.mem.read a := by
  obtain ⟨-, h⟩ | ⟨hlen, h⟩ := fenc_cases s
  · exact ⟨s.mem, _, h, fun _ _ => rfl⟩
  · refine ⟨_, _, h, fun a ha => Memory.read_writeBytes_outside _ _ _ _ ?_⟩
    rw [length_frameImage _ _ _ (s.length_payload.trans_le hlen)]
    omega

theorem fdec_frame (s : State) : ∃ hdr len e, fdec s = { s with dhdr := hdr, dlen := len, err := e } := by
  obtain ⟨e, -, h⟩ | ⟨-, h⟩ := fdec_cases s
  · exact ⟨s.dhdr, s.dlen, _, h⟩
  · exact ⟨_, _, _, h⟩

theorem feed_frame (b : Byte) (s : State) : s.UnpackedFrom (feed b s) := by
  obtain h | ⟨-, h⟩ := feed_cases_any b s
  · rw [h]
    exact unpackedFrom_setErr s _
  · exact h

theorem xtrap_frame (s : State) : ∃ xq xts rest mag axis e,
    xtrap s = { s with xq := xq, xts := xts, xrest := rest, xmag := mag, xaxis := axis, err := e } := by
  obtain h | ⟨r, h⟩ := xtrap_cases s
  · exact ⟨s.xq, s.xts, s.xrest, s.xmag, s.xaxis, _, h⟩
  · exact ⟨_, _, _, _, _, _, h.trans (extrapolate_frame r s)⟩

/-- Settles O16: each command ends in its own update of the state, and `FENC` and `FEED` keep the bytes outside their
buffer. -/
theorem commandsWriteOnlyTheirElements : Obligations.CommandsWriteOnlyTheirElements := by
  intro i s t h hreset
  obtain rfl := exec_next h
  cases i with
  | reset => exact absurd rfl hreset
  | fenc =>
    obtain ⟨m, e, h, hm⟩ := fenc_frame s
    rw [after, h]
    exact ⟨rfl, rfl, rfl, rfl, rfl, rfl, fun a _ ha => hm a (by omega), fun hne => absurd rfl hne,
      fun _ => ⟨rfl, rfl, rfl, rfl, rfl, fun a ha _ => hm a (by omega)⟩, fun _ => ⟨rfl, rfl⟩, fun _ _ => rfl,
      fun _ => ⟨rfl, rfl, rfl, rfl⟩, fun _ => ⟨rfl, rfl, rfl, rfl, rfl⟩⟩
  | fdec =>
    obtain ⟨hdr, len, e, h⟩ := fdec_frame s
    rw [after, h]
    exact ⟨rfl, rfl, rfl, rfl, rfl, rfl, fun _ _ _ => rfl, fun _ _ _ _ => rfl,
      fun _ => ⟨rfl, rfl, rfl, rfl, rfl, fun _ _ _ => rfl⟩, fun hne => absurd rfl hne, fun _ _ => rfl,
      fun _ => ⟨rfl, rfl, rfl, rfl⟩, fun _ => ⟨rfl, rfl, rfl, rfl, rfl⟩⟩
  | feed b =>
    obtain ⟨others, outside, -⟩ := feed_frame b s
    rw [after]
    generalize feed b s = t at others outside
    rw [others]
    exact ⟨rfl, rfl, rfl, rfl, rfl, rfl, fun a _ ha => outside a (by omega), fun _ a _ ha => outside a (by omega),
      fun hne => absurd rfl (hne b), fun _ => ⟨rfl, rfl⟩, fun hne => absurd rfl (hne b),
      fun _ => ⟨rfl, rfl, rfl, rfl⟩, fun _ => ⟨rfl, rfl, rfl, rfl, rfl⟩⟩
  | rxack =>
    exact ⟨rfl, rfl, rfl, rfl, rfl, rfl, fun _ _ _ => rfl, fun _ _ _ _ => rfl,
      fun _ => ⟨rfl, rfl, rfl, rfl, rfl, fun _ _ _ => rfl⟩, fun _ => ⟨rfl, rfl⟩, fun _ hne => absurd rfl hne,
      fun _ => ⟨rfl, rfl, rfl, rfl⟩, fun _ => ⟨rfl, rfl, rfl, rfl, rfl⟩⟩
  | qdec =>
    exact ⟨rfl, rfl, rfl, rfl, rfl, rfl, fun _ _ _ => rfl, fun _ _ _ _ => rfl,
      fun _ => ⟨rfl, rfl, rfl, rfl, rfl, fun _ _ _ => rfl⟩, fun _ => ⟨rfl, rfl⟩, fun _ _ => rfl,
      fun hne => absurd rfl hne, fun _ => ⟨rfl, rfl, rfl, rfl, rfl⟩⟩
  | xtrap =>
    obtain ⟨xq, xts, rest, mag, axis, e, h⟩ := xtrap_frame s
    rw [after, h]
    exact ⟨rfl, rfl, rfl, rfl, rfl, rfl, fun _ _ _ => rfl, fun _ _ _ _ => rfl,
      fun _ => ⟨rfl, rfl, rfl, rfl, rfl, fun _ _ _ => rfl⟩, fun _ => ⟨rfl, rfl⟩, fun _ _ => rfl,
      fun _ => ⟨rfl, rfl, rfl, rfl⟩, fun hne => absurd rfl hne⟩

theorem rxvalid_after_of_ne {i : Instr} (s : State) (hfeed : ∀ b, i ≠ .feed b) (hack : i ≠ .rxack) (hreset : i ≠ .reset) :
    (after i s).rxvalid = s.rxvalid := by
  obtain ⟨-, -, -, -, -, -, -, -, -, -, rxvalid, -, -⟩ :=
    commandsWriteOnlyTheirElements i s _ (exec_eq i s) hreset
  exact rxvalid hfeed hack

/-- Settles O17: `RXACK` and `RESET` clear `RXVALID`, `FEED` never does, and the other commands leave it; the flag
groups are elements of the written-by column. -/
theorem flagsChangeOnlyByTheirCommands : Obligations.FlagsChangeOnlyByTheirCommands := by
  intro i s t h
  obtain rfl := exec_next h
  have written := commandsWriteOnlyTheirElements i s _ h
  refine ⟨fun hs ht => ?_, fun hs ht => ?_, fun hq hreset => ?_, fun hx hreset => ?_⟩
  · by_contra hfeed
    push Not at hfeed
    by_cases hclear : i = .rxack ∨ i = .reset
    · obtain rfl | rfl := hclear <;> cases ht
    · push Not at hclear
      rw [rxvalid_after_of_ne s hfeed hclear.1 hclear.2, hs] at ht
      cases ht
  · by_contra hclear
    push Not at hclear
    by_cases hfeed : ∃ b, i = .feed b
    · obtain ⟨b, rfl⟩ := hfeed
      exact absurd ((feed_frame b s).waits hs) (by rw [after] at ht; simp [ht])
    · push Not at hfeed
      rw [rxvalid_after_of_ne s hfeed hclear.1 hclear.2, hs] at ht
      cases ht
  · obtain ⟨-, -, -, -, -, -, -, -, -, -, -, qflags, -⟩ := written hreset
    exact (qflags hq).2
  · obtain ⟨-, -, -, -, -, -, -, -, -, -, -, -, xflags⟩ := written hreset
    exact (xflags hx).2.2

end Sys2Proof.Machine
end

section
/-!
PROOFS, family `other`, what every step keeps: the invariant, the drop counter (rules R17, R173), the elements under
reads and idling (rule R28), and both resets (rules R150, R180).
-/

namespace Sys2Proof.Machine

/-! ### Reset -/

theorem resetElements_sameElements (s : State) : (resetElements s).SameElements State.reset := rfl

theorem exec_reset (s : State) : exec .reset s = .next (resetElements s) := rfl

/-- Settles O11: both are `resetElements`. -/
theorem bothResetsLeaveTheResetState : Obligations.BothResetsLeaveTheResetState :=
  fun s => ⟨rfl, resetElements s, exec_reset s, resetElements_sameElements s⟩

/-- The only word with the operation code of `RESET` that a row accepts is the word of `RESET`. -/
theorem eq_reset_word_of_accepts {r : OpcodeRow} (hr : r ∈ opcodeMap) {w : Word} (h : r.accepts w)
    (hopc : opc w = 0x01#8) : w = 0x00000001#32 := by
  have himm := imm8_of_accepts hr h (by rw [hopc]; decide)
  rw [← append_fields w, rsv_of_accepts hr h, himm, hopc]
  rfl

/-- Settles O10: `RESET` leaves the elements of `State.reset`, and no other word with its operation code is a row's. -/
theorem resetCommandZeroesEveryElement : Obligations.ResetCommandZeroesEveryElement := by
  refine ⟨decodeWord_encodeWord .reset, fun w s hopc hw => ?_, fun s => ⟨resetElements s, exec_reset s,
    resetElements_sameElements s, rfl, rfl, rfl, rfl, rfl, rfl, rfl, rfl, rfl, rfl, rfl, rfl, rfl, rfl, rfl, rfl, rfl,
    rfl, rfl, fun i a => ?_, fun i => ?_, fun i => ?_, fun _ => rfl, fun j => ?_, rfl, rfl, rfl⟩⟩
  · exact regWrite_cmd_of_no_row (fun r hr h => hw (eq_reset_word_of_accepts hr h hopc)) s
  all_goals simp [State.reset]

/-! ### The invariant -/

theorem inv_resetElements (s : State) : (resetElements s).Inv where
  memWf := Memory.wf_nil
  memMapped := fun _ hc => absurd hc List.not_mem_nil
  ulenBound := Nat.zero_le _
  errCode := Nat.zero_le _
  dlenBound := Nat.zero_le _
  rxlenBound := Nat.zero_le _
  waitingEmpty := fun _ => rfl

/-- Settles O12: the reset state is what a reset of any state leaves. -/
theorem resetStateHasTheInvariant : Obligations.ResetStateHasTheInvariant := inv_resetElements State.reset

theorem ErrorCode.code_le (e : ErrorCode) : (ErrorCode.code e).toNat ≤ 6 := by
  cases e <;> decide

/-- The invariant of the buffers' memory. -/
structure Memory.Mapped (m : Memory) : Prop where
  wf : m.wf
  inBuffers : ∀ c ∈ m, ∃ b, regionAt c.1 = .bytes b

theorem Memory.Mapped.write {m : Memory} (h : m.Mapped) {off : Nat} {b : Buf} (hoff : regionAt off = .bytes b)
    (v : Byte) : (m.write off v).Mapped where
  wf := Memory.wf_write h.wf off v
  inBuffers c hc := by
    obtain ⟨rfl, -⟩ | hc := Memory.mem_write hc
    · exact ⟨b, hoff⟩
    · exact h.inBuffers c hc

/-- A string written inside a buffer. -/
theorem Memory.Mapped.writeBytes {m : Memory} (h : m.Mapped) (b : Buf) {bs : List Byte} (hbs : bs.length ≤ b.indexBound) :
    (m.writeBytes (Buf.base b) bs).Mapped where
  wf := Memory.wf_writeBytes h.wf _ _
  inBuffers c hc := by
    obtain ⟨lo, hi⟩ | hc := Memory.mem_writeBytes hc
    · exact ⟨b, (regionAt_eq_bytes_iff _ _).mpr ⟨lo, by omega⟩⟩
    · exact h.inBuffers c hc

theorem State.Inv.mapped {s : State} (h : s.Inv) : s.mem.Mapped := ⟨h.memWf, h.memMapped⟩

theorem State.Inv.setErr {s : State} (h : s.Inv) {c : Byte} (hc : c.toNat ≤ 6) : (s.setErr c).Inv :=
  { h with errCode := hc }

theorem State.Inv.withMem {s : State} (h : s.Inv) {m : Memory} (hm : m.Mapped) : { s with mem := m }.Inv :=
  { h with memWf := hm.wf, memMapped := hm.inBuffers }

theorem inv_fenc {s : State} (h : s.Inv) : (fenc s).Inv := by
  obtain ⟨-, he⟩ | ⟨hlen, he⟩ := fenc_cases s <;> rw [he]
  · exact h.setErr (ErrorCode.code_le _)
  · refine (h.withMem (h.mapped.writeBytes .fbuf ?_)).setErr (Nat.zero_le _)
    exact (length_frameImage _ _ _ (s.length_payload.trans_le hlen)).le

theorem inv_fdec {s : State} (h : s.Inv) : (fdec s).Inv := by
  obtain ⟨e, -, he⟩ | ⟨hok, he⟩ := fdec_cases s <;> rw [he]
  · exact h.setErr (ErrorCode.code_le e)
  · have size : (byteAt s.frame 5).toNat ≤ 236 := ((frameCheck_eq_ok_iff _).mp hok).2.1
    exact { h with dlenBound := size, errCode := Nat.zero_le _ }

theorem inv_feed (b : Byte) {s : State} (h : s.Inv) : (feed b s).Inv := by
  obtain ⟨-, he⟩ | ⟨hv, hu, he⟩ | ⟨hv, hu, -, he⟩ | ⟨-, hu, hok, he⟩ := feed_cases b s h.ulenBound <;> rw [he]
  · exact h.setErr (ErrorCode.code_le _)
  · exact { h with
      ulenBound := (ulen_appendByte b h.ulenBound).trans_le hu
      errCode := Nat.zero_le _
      waitingEmpty := fun hw => absurd (hv.symm.trans hw) Bool.false_ne_true }
  · refine { h with
      ulenBound := ?_
      errCode := Nat.zero_le _
      waitingEmpty := fun hw => absurd (hv.symm.trans hw) Bool.false_ne_true }
    simp [hu]
  · have slot := h.mapped.writeBytes .rxpay (bs := slice (appendByte b s).ubuf.toList 8 244)
      (by simp only [length_slice, Vector.length_toList]; decide)
    have size : (byteAt (appendByte b s).ubuf.toList 5).toNat ≤ 236 := by
      rw [toList_ubuf_appendByte b s hu]
      exact ((frameCheck_eq_ok_iff _).mp hok).2.1
    exact { h with
      memWf := slot.wf
      memMapped := slot.inBuffers
      ulenBound := Nat.zero_le _
      rxlenBound := size
      errCode := Nat.zero_le _
      waitingEmpty := fun _ => rfl }

theorem inv_xtrap {s : State} (h : s.Inv) : (xtrap s).Inv := by
  obtain he | ⟨r, he⟩ := xtrap_cases s <;> rw [he]
  · exact h.setErr (ErrorCode.code_le _)
  · exact { h with errCode := Nat.zero_le _ }

theorem inv_after (i : Instr) {s : State} (h : s.Inv) : (after i s).Inv := by
  cases i with
  | reset => exact inv_resetElements s
  | fenc => exact inv_fenc h
  | fdec => exact inv_fdec h
  | feed b => exact inv_feed b h
  | rxack => exact { h with errCode := Nat.zero_le _, waitingEmpty := nofun }
  | qdec => exact { h with errCode := Nat.zero_le _ }
  | xtrap => exact inv_xtrap h

/-- Settles O13: one case for each thing a step can do. -/
theorem stepKeepsTheInvariant : Obligations.StepKeepsTheInvariant := by
  intro s t h hstep
  obtain rfl | ⟨e, rest, -, hcase⟩ := step_cases hstep
  · exact h
  have ht : (s.taking rest).Inv := { h with }
  obtain rfl | ⟨v, rfl⟩ | ⟨off, b, v, hoff, rfl⟩ | ⟨slot, v, hslot⟩ | ⟨i, rfl⟩ | rfl := hcase
  · exact inv_resetElements _
  · exact { h with }
  · exact ht.withMem (ht.mapped.write hoff v)
  · obtain ⟨txhdr, txlen, rate, ts0, q64, gyr, rfl⟩ := writeSlot_next hslot
    exact { h with }
  · exact inv_after i ht
  · exact ht.setErr (ErrorCode.code_le _)

/-! ### One event -/

/-- Settles O8. -/
theorem stepWithoutEventIsIdle : Obligations.StepWithoutEventIsIdle := by
  intro s h
  simp only [step, h]

theorem step_eq_handle {s : State} {e : Event} {rest : List Event} (h : s.pending = e :: rest) :
    step s = handle e (s.taking rest) := by
  simp only [step, h]

/-- Settles O7: the event of a write at the offset of `CMD` runs its word. -/
theorem stepRunsTheCommandWritten : Obligations.StepRunsTheCommandWritten := by
  intro s rest w i h hw
  rw [step_eq_handle h]
  refine (regWrite_cmd w (s.taking rest)).trans ?_
  simp only [runCommand, hw]
  rfl

/-- Settles O58: a read changes the data returned only. -/
theorem readsAndIdlingChangeNoElement : Obligations.ReadsAndIdlingChangeNoElement := by
  intro s t hstep hevent
  obtain h | ⟨off, rest, h⟩ | ⟨off, size, rest, h⟩ := hevent
  · rw [stepWithoutEventIsIdle s h] at hstep
    cases hstep
    rfl
  all_goals
    rw [step_eq_handle h] at hstep
    obtain ⟨v, -, rfl⟩ := answerRead_next hstep
    rfl

/-- Settles O56: an access of one byte inside a buffer selects it, and no access of another size selects anything. -/
theorem bufferBytesReadBack : Obligations.BufferBytesReadBack := by
  refine ⟨fun s off b hm hoff => ?_, fun s off hoff => ?_, fun s off size b hsize => ?_⟩
  · refine ⟨{ s with mem := s.mem.write off b }, ?_, rfl, Memory.read_write_same hm off b,
      fun a ha => Memory.read_write_other _ _ _ _ ha.symm⟩
    have selects (buf : Buf) := byteAccess_eq_ok_iff off 1 buf
    rw [memWrite]
    obtain h | h := hoff
    · rw [(selects .txpay).mpr ⟨rfl, h.1, by simp only [Buf.base, Buf.indexBound]; omega⟩]; rfl
    · rw [(selects .fbuf).mpr ⟨rfl, h.1, by simp only [Buf.base, Buf.indexBound]; omega⟩]; rfl
  · have inside : (HostAction.memRead off 1).permitted = true := decide_eq_true ⟨rfl, hoff⟩
    rw [← isOk_byteAccess] at inside
    rw [memRead_eq]
    cases h : byteAccess off 1 with
    | ok buf => rfl
    | error e => rw [h] at inside; cases inside
  · rw [memRead, memWrite, byteAccess, if_pos hsize]
    exact ⟨rfl, rfl⟩

/-! ### The drop counter (rules R17, R173) -/

/-- In a state that a run reaches, a command that changes `DROPCNT` is `FEED`, which counts one byte, or `RESET`. -/
theorem dropcnt_after {i : Instr} {s : State} (hu : s.ulen.toNat ≤ 243) (h : (after i s).dropcnt ≠ s.dropcnt) :
    ((after i s).dropcnt = s.dropcnt + 1#32 ∧ ∃ b, i = .feed b) ∨ ((after i s).dropcnt = 0#32 ∧ i = .reset) := by
  by_cases hreset : i = .reset
  · subst hreset
    exact .inr ⟨rfl, rfl⟩
  by_cases hfeed : ∃ b, i = .feed b
  · obtain ⟨b, rfl⟩ := hfeed
    obtain ⟨-, hloop⟩ := feedLoopRunsAtMostOnce b s hu
    obtain ⟨hd, -⟩ | ⟨hd, -⟩ | ⟨hd, -⟩ := hloop _ (exec_eq (.feed b) s)
    · exact absurd hd h
    · exact .inl ⟨hd, b, rfl⟩
    · exact absurd hd h
  · push Not at hfeed
    obtain ⟨-, -, -, -, -, -, -, -, unpacker, -⟩ := commandsWriteOnlyTheirElements i s _ (exec_eq i s) hreset
    exact absurd (unpacker hfeed).1 h

/-- A word write that changes `DROPCNT` is a write of `CMD` whose word decodes to the command that does. -/
theorem dropcnt_regWrite {off : Nat} {w : Word} {s t : State} (h : regWrite off w s = .next t)
    (hd : t.dropcnt ≠ s.dropcnt) : off = 0x000 ∧ ∃ i, decodeWord w = .ok i ∧ t = after i s := by
  cases hslot : wordAccess off with
  | error e => rw [regWrite_error hslot] at h; cases h
  | ok slot =>
    obtain rfl := offset_of_wordAccess off slot hslot
    by_cases hcmd : slot = .reg .cmd
    · subst hcmd
      rw [regWrite_cmd] at h
      refine ⟨rfl, ?_⟩
      obtain ⟨i, hi, hrun⟩ | ⟨e, -, hrun⟩ := runCommand_cases w s <;> rw [hrun] at h <;> cases h
      · exact ⟨i, hi, rfl⟩
      · exact absurd rfl hd
    · rw [regWrite_offset hcmd] at h
      obtain ⟨txhdr, txlen, rate, ts0, q64, gyr, rfl⟩ := writeSlot_next (answerWrite_next h)
      exact absurd rfl hd

/-- Settles O18: of the events, only the power-on reset and a command can change the counter. -/
theorem dropCounterChangesOnlyByFeedAndReset : Obligations.DropCounterChangesOnlyByFeedAndReset := by
  intro s t hu hstep hd
  cases hp : s.pending with
  | nil =>
    rw [stepWithoutEventIsIdle s hp] at hstep
    cases hstep
    exact absurd rfl hd
  | cons e rest =>
    rw [step_eq_handle hp] at hstep
    cases e with
    | powerOnReset =>
      cases hstep
      exact .inr ⟨rfl, _, _, rfl, .inl rfl⟩
    | host a =>
      cases a with
      | regRead _ | memRead _ _ =>
        obtain ⟨v, -, rfl⟩ := answerRead_next hstep
        exact absurd rfl hd
      | memWrite _ _ _ =>
        obtain ⟨b, -, rfl⟩ := memWrite_next hstep
        exact absurd rfl hd
      | regWrite off w =>
        obtain ⟨rfl, i, hw, rfl⟩ := dropcnt_regWrite hstep hd
        obtain ⟨hd', b, rfl⟩ | ⟨hd', rfl⟩ := dropcnt_after (s := s.taking rest) hu hd
        · exact .inl ⟨hd', w, b, rest, rfl, hw⟩
        · obtain rfl := encodeUndoesDecode w .reset hw
          exact .inr ⟨hd', _, rest, rfl, .inr rfl⟩

end Sys2Proof.Machine
end

section
/-!
PROOFS, family `other`, the stale bytes of `UBUF` (rules R16, R27). Two states that differ in them at most are one state
and the same with another `UBUF` that starts with the same buffered bytes. Every event but `FEED` neither reads nor
writes `UBUF`, a reset apart, which gives it one value; and `FEED` reads the buffered bytes only.
-/

namespace Sys2Proof.Machine

/-- `s` with other bytes in `UBUF`. -/
def State.withUbuf (s : State) (u : Vector Byte 244) : State := { s with ubuf := u }

theorem State.Indistinguishable.eq_withUbuf {s t : State} (h : s.Indistinguishable t) : t = s.withUbuf t.ubuf :=
  h.1.symm

theorem State.Indistinguishable.refl (s : State) : s.Indistinguishable s := ⟨rfl, rfl⟩

/-- An update that leaves `UBUF` and `ULEN` keeps two states indistinguishable. -/
theorem State.Indistinguishable.update {s s' : State} {u : Vector Byte 244} (h : s.Indistinguishable (s.withUbuf u))
    (hulen : s'.ulen = s.ulen) (hubuf : s'.ubuf = s.ubuf) : s'.Indistinguishable (s'.withUbuf u) := by
  refine ⟨rfl, ?_⟩
  have same : s.ubuf.toList.take s.ulen.toNat = u.toList.take s.ulen.toNat := h.2
  rw [← hulen, ← hubuf] at same
  exact same

/-! ### Results alike -/

/-- What a step ends in from one state and from the other: indistinguishable states, or the same refusal. -/
def Alike (r r' : Result) : Prop :=
  (∀ s', r = .next s' → ∃ t', r' = .next t' ∧ s'.Indistinguishable t') ∧
  (∀ e, r = .refused e → r' = .refused e)

theorem alike_next {s t : State} (h : s.Indistinguishable t) : Alike (.next s) (.next t) :=
  ⟨fun _ hs => ⟨t, rfl, Host.Outcome.next.inj hs ▸ h⟩, nofun⟩

theorem alike_refused (e : Refusal) : Alike (.refused e) (.refused e) := ⟨nofun, fun _ h => h⟩

theorem alike_answerRead (d : Except AccessError ReadData) {s t : State} (h : s.Indistinguishable t) :
    Alike (answerRead d s) (answerRead d t) := by
  obtain ⟨hs, hb⟩ := h
  cases d with
  | ok v => exact alike_next ⟨by rw [← hs], hb⟩
  | error e => exact alike_refused _

/-- A write that changes the state in the same way with another `UBUF` ends alike. -/
theorem alike_answerWrite {d : Except AccessError State} {s : State} {u : Vector Byte 244}
    (h : s.Indistinguishable (s.withUbuf u)) (hd : ∀ s', d = .ok s' → s'.ulen = s.ulen ∧ s'.ubuf = s.ubuf) :
    Alike (answerWrite d) (answerWrite (d.map (·.withUbuf u))) := by
  cases d with
  | ok s' =>
    obtain ⟨hulen, hubuf⟩ := hd s' rfl
    exact alike_next (h.update hulen hubuf)
  | error e => exact alike_refused _

/-! ### The accesses do not see `UBUF` -/

theorem readSlot_withUbuf (w : WordSlot) (s : State) (u : Vector Byte 244) :
    readSlot w (s.withUbuf u) = readSlot w s := by
  cases w with
  | reg r => cases r <;> rfl
  | lo r => cases r <;> rfl
  | hi r => cases r <;> rfl

theorem writeSlot_withUbuf (w : WordSlot) (v : Word) (s : State) (u : Vector Byte 244) :
    writeSlot w v (s.withUbuf u) = (writeSlot w v s).map (·.withUbuf u) := by
  cases w with
  | reg r => cases r <;> rfl
  | lo r => cases r <;> rfl
  | hi r => cases r <;> rfl

theorem writeBuf_withUbuf (b : Buf) (off : Nat) (v : Byte) (s : State) (u : Vector Byte 244) :
    writeBuf b off v (s.withUbuf u) = (writeBuf b off v s).map (·.withUbuf u) := by
  cases b <;> rfl

section
variable {s : State} {u : Vector Byte 244} (h : s.Indistinguishable (s.withUbuf u))
include h

theorem alike_regRead (off : Nat) : Alike (regRead off s) (regRead off (s.withUbuf u)) := by
  cases hslot : wordAccess off with
  | error e =>
    rw [regRead_error hslot, regRead_error hslot]
    exact alike_refused _
  | ok slot =>
    obtain rfl := offset_of_wordAccess off slot hslot
    rw [regRead_offset, regRead_offset, readSlot_withUbuf]
    exact alike_answerRead _ h

theorem alike_memRead (off size : Nat) : Alike (memRead off size s) (memRead off size (s.withUbuf u)) := by
  rw [memRead_eq, memRead_eq]
  exact alike_answerRead _ h

theorem alike_memWrite (off size : Nat) (v : Byte) :
    Alike (memWrite off size v s) (memWrite off size v (s.withUbuf u)) := by
  rw [memWrite, memWrite]
  cases byteAccess off size with
  | error e => exact alike_refused _
  | ok b =>
    change Alike (answerWrite (writeBuf b off v s)) (answerWrite (writeBuf b off v (s.withUbuf u)))
    rw [writeBuf_withUbuf]
    refine alike_answerWrite h fun s' hs' => ?_
    cases b <;> cases hs' <;> exact ⟨rfl, rfl⟩

/-! ### The commands -/

theorem indistinguishable_fenc : (fenc s).Indistinguishable (fenc (s.withUbuf u)) := by
  have same : fenc (s.withUbuf u) = (fenc s).withUbuf u := by
    unfold fenc
    rw [show (s.withUbuf u).txlen = s.txlen from rfl]
    split <;> rfl
  obtain ⟨m, e, he, -⟩ := fenc_frame s
  rw [same]
  exact h.update (by rw [he]) (by rw [he])

theorem indistinguishable_fdec : (fdec s).Indistinguishable (fdec (s.withUbuf u)) := by
  have same : fdec (s.withUbuf u) = (fdec s).withUbuf u := by
    unfold fdec
    rw [show (s.withUbuf u).frame = s.frame from rfl]
    cases frameCheck s.frame <;> rfl
  obtain ⟨hdr, len, e, he⟩ := fdec_frame s
  rw [same]
  exact h.update (by rw [he]) (by rw [he])

theorem indistinguishable_xtrap : (xtrap s).Indistinguishable (xtrap (s.withUbuf u)) := by
  have same : xtrap (s.withUbuf u) = (xtrap s).withUbuf u := by
    unfold xtrap
    rw [show (s.withUbuf u).rate = s.rate from rfl]
    cases SampleRate.ofByte s.rate <;> rfl
  obtain ⟨xq, xts, rest, mag, axis, e, he⟩ := xtrap_frame s
  rw [same]
  exact h.update (by rw [he]) (by rw [he])

theorem indistinguishable_feed (b : Byte) (hu : s.ulen.toNat ≤ 243) :
    (feed b s).Indistinguishable (feed b (s.withUbuf u)) := by
  have hb : s.buffered = (s.withUbuf u).buffered := h.2
  obtain ⟨hv, he⟩ | ⟨hv, hlt, he⟩ | ⟨hv, hfull, hc, he⟩ | ⟨hv, hfull, hc, he⟩ := feed_cases b s hu <;> rw [he]
  · rw [feed_pending b (s.withUbuf u) hv]
    exact h.update rfl rfl
  · rw [feed_appends b (s.withUbuf u) hv hlt]
    refine ⟨rfl, ?_⟩
    exact (buffered_appendByte s b hu).trans (hb ▸ (buffered_appendByte (s.withUbuf u) b hu).symm)
  · rw [feed_discards b (s.withUbuf u) hv hfull (hb ▸ hc)]
    have discarded (t : State) (ht : t.ulen.toNat = 243) :
        (discardOne (appendByte b t)).buffered = (t.buffered ++ [b]).tail := by
      have full := ulen_appendByte_full b t ht
      rw [buffered_discardOne _ (by omega) (by omega), buffered_appendByte t b (by omega)]
    refine ⟨rfl, ?_⟩
    exact (discarded s hfull).trans (hb ▸ (discarded (s.withUbuf u) hfull).symm)
  · rw [feed_emits b (s.withUbuf u) hv hfull (hb ▸ hc)]
    have window : (appendByte b s).ubuf.toList = (appendByte b (s.withUbuf u)).ubuf.toList := by
      rw [toList_ubuf_appendByte b s hfull, toList_ubuf_appendByte b (s.withUbuf u) hfull, hb]
    refine ⟨?_, rfl⟩
    simp only [emitFrame, window]
    rfl

theorem indistinguishable_after (i : Instr) (hu : s.ulen.toNat ≤ 243) :
    (after i s).Indistinguishable (after i (s.withUbuf u)) := by
  cases i with
  | reset => exact .refl _
  | fenc => exact indistinguishable_fenc h
  | fdec => exact indistinguishable_fdec h
  | feed b => exact indistinguishable_feed h b hu
  | rxack => exact h.update rfl rfl
  | qdec => exact h.update rfl rfl
  | xtrap => exact indistinguishable_xtrap h

theorem alike_runCommand (w : Word) (hu : s.ulen.toNat ≤ 243) :
    Alike (runCommand w s) (runCommand w (s.withUbuf u)) := by
  unfold runCommand
  cases decodeWord w with
  | ok i =>
    change Alike (exec i s) (exec i (s.withUbuf u))
    rw [exec_eq, exec_eq]
    exact alike_next (indistinguishable_after h i hu)
  | error e => exact alike_next (h.update rfl rfl)

theorem alike_regWrite (off : Nat) (w : Word) (hu : s.ulen.toNat ≤ 243) :
    Alike (regWrite off w s) (regWrite off w (s.withUbuf u)) := by
  cases hslot : wordAccess off with
  | error e =>
    rw [regWrite_error hslot, regWrite_error hslot]
    exact alike_refused _
  | ok slot =>
    obtain rfl := offset_of_wordAccess off slot hslot
    by_cases hcmd : slot = .reg .cmd
    · subst hcmd
      rw [regWrite_cmd, regWrite_cmd]
      exact alike_runCommand h w hu
    · rw [regWrite_offset hcmd, regWrite_offset hcmd, writeSlot_withUbuf]
      refine alike_answerWrite h fun s' hs' => ?_
      obtain ⟨txhdr, txlen, rate, ts0, q64, gyr, rfl⟩ := writeSlot_next hs'
      exact ⟨rfl, rfl⟩

theorem alike_handle (e : Event) (hu : s.ulen.toNat ≤ 243) : Alike (handle e s) (handle e (s.withUbuf u)) := by
  cases e with
  | powerOnReset => exact alike_next (.refl _)
  | host a =>
    cases a with
    | regRead off => exact alike_regRead h off
    | regWrite off w => exact alike_regWrite h off w hu
    | memRead off size => exact alike_memRead h off size
    | memWrite off size v => exact alike_memWrite h off size v

end

/-- Settles O19: a step is idle from both states, or it handles the same event. -/
theorem staleUnpackerBytesAreUnobservable : Obligations.StaleUnpackerBytesAreUnobservable := by
  intro s t hu h
  change Alike (step s) (step t)
  obtain ⟨u, rfl⟩ : ∃ u, t = s.withUbuf u := ⟨_, h.eq_withUbuf⟩
  cases hp : s.pending with
  | nil =>
    rw [stepWithoutEventIsIdle s hp, stepWithoutEventIsIdle (s.withUbuf u) hp]
    exact alike_next h
  | cons e rest =>
    rw [step_eq_handle hp, step_eq_handle (s := s.withUbuf u) hp]
    exact alike_handle (s := s.taking rest) (h.update rfl rfl) e hu

end Sys2Proof.Machine
end

section
/-!
PROOFS, family `other`, streams and samples: the two quiet cases of `FEED` (rules R93, R95), the scan of rule R101 and
the recovery of a frame behind garbage (rule R102), the split of a notification (rule R59), and the anchor of `XTRAP`
(rules R137, R185).
-/

namespace Sys2Proof.Machine

/-! ### `FEED` below a full buffer and at an invalid window -/

/-- Settles O25: the case of `FEED` that appends. -/
theorem feedAppendsItsByte : Obligations.FeedAppendsItsByte := by
  intro b s hv hu
  refine ⟨feed b s, exec_eq (.feed b) s, ?_⟩
  rw [feed_appends b s hv hu]
  exact ⟨rfl, buffered_appendByte s b hu.le⟩

/-- Settles O26: the case of `FEED` that discards. -/
theorem feedDiscardsOneByteOfAnInvalidWindow : Obligations.FeedDiscardsOneByteOfAnInvalidWindow := by
  intro b s hv hu hc
  have full := ulen_appendByte_full b s hu
  have nonempty : s.buffered ≠ [] := by
    rw [← List.length_pos_iff, State.length_buffered s (by omega)]
    omega
  refine ⟨feed b s, exec_eq (.feed b) s, ?_⟩
  rw [feed_discards b s hv hu hc]
  refine ⟨?_, ?_⟩
  · have ulen : (discardOne (appendByte b s)).ulen = s.ulen := BitVec.add_sub_cancel _ _
    rw [← ulen]; rfl
  · refine (buffered_discardOne _ (by omega) (by omega)).trans ?_
    rw [buffered_appendByte s b hu.le, List.tail_append_of_ne_nil nonempty]

/-! ### The scan (rule R101) -/

/-- The bytes that an answer of the scan accounts for. -/
def Unpacked.bytes (d : Unpacked) : Nat := 244 * d.frames.length + d.dropped + d.rest.length

theorem Unpacked.bytes_andThen {d e : Unpacked} (h : e.bytes = d.rest.length) : (d.andThen e).bytes = d.bytes := by
  simp only [Unpacked.bytes, Unpacked.andThen, List.length_append] at h ⊢
  omega

theorem Unpacked.bytes_pass {buf : List Byte} (h : 244 ≤ buf.length) : (Unpacked.pass buf).bytes = buf.length := by
  unfold Unpacked.pass
  split <;> simp [Unpacked.bytes] <;> omega

/-- Every byte is in a frame, dropped, or left. -/
theorem bytes_drain (buf : List Byte) : (drain buf).bytes = buf.length := by
  induction hn : buf.length using Nat.strong_induction_on generalizing buf with
  | _ n ih =>
    by_cases hlt : buf.length < 244
    · rw [drain_below hlt, ← hn]
      simp [Unpacked.bytes, Unpacked.start]
    · have hge : 244 ≤ buf.length := by omega
      rw [drain_full hge, Unpacked.bytes_andThen (ih _ (hn ▸ Unpacked.length_rest_pass hge) _ rfl),
        Unpacked.bytes_pass hge, hn]

/-- Settles O31: the host's loop answers what the scan does, and the scan accounts for every byte. -/
theorem feedingIsTheScan : Obligations.FeedingIsTheScan := by
  intro s bytes hm hv hu
  have loop := feedAll_matches_drain bytes (s := s) ⟨hm, hv, hu⟩
  have total := bytes_drain (s.buffered ++ bytes)
  rw [List.length_append] at total
  exact ⟨loop.frames, loop.rest, loop.dropcnt, loop.ready.idle, length_rest_drain _, total.symm⟩

theorem slice_cons (b : Byte) (bs : List Byte) (a c : Nat) : slice (b :: bs) (a + 1) (c + 1) = slice bs a c := by
  simp [slice]

/-- Garbage in which no window passes is dropped byte by byte, and the frame behind it is found (rule R102). -/
theorem drain_garbage_append {g f : List Byte} (hf : f.length = 244) (hok : frameCheck f = .ok)
    (hg : ∀ p, p < g.length → frameCheck (slice (g ++ f) p (p + 244)) ≠ .ok) :
    drain (g ++ f) = ⟨[], [emittedOf f], g.length⟩ := by
  induction g with
  | nil => exact drain_window_ok hf hok
  | cons b g ih =>
    have fails : frameCheck ((b :: g ++ f).take 244) ≠ .ok := hg 0 (by simp)
    have later := ih fun p hp => slice_cons b (g ++ f) p (p + 244) ▸ hg (p + 1) (by simpa using hp)
    rw [drain_full (by simp; omega), Unpacked.pass, if_neg fails]
    change Unpacked.andThen _ (drain (g ++ f)) = _
    rw [later]
    simp [Unpacked.andThen, Nat.add_comm]

/-- Settles O32: the scan of garbage and frame, from an empty buffer. -/
theorem frameAfterGarbageIsRecovered : Obligations.FrameAfterGarbageIsRecovered := by
  intro g f hf hok hg
  have loop := feedAll_matches_drain (g ++ f) (s := State.reset) ⟨Memory.wf_nil, rfl, Nat.zero_le _⟩
  rw [show State.reset.buffered = [] from rfl, List.nil_append, drain_garbage_append hf hok hg] at loop
  refine ⟨?_, loop.dropcnt.trans (BitVec.zero_add _), ?_⟩
  · refine loop.frames.trans ?_
    rw [emittedOf, slice, List.take_of_length_le (by simp [hf])]
  · have empty := loop.ready.length_buffered
    rw [loop.rest] at empty
    exact BitVec.eq_of_toNat_eq empty.symm

/-! ### Notifications (rule R59) -/

theorem length_slice_of_le {bs : List Byte} {a n : Nat} (h : a + n ≤ bs.length) : (slice bs a (a + n)).length = n := by
  simp; omega

/-- Consecutive slices of one length, one behind the other, are the string up to where they end. -/
theorem flatten_slices (bs : List Byte) (a n k : Nat) :
    ((List.range k).map fun i => slice bs (a + n * i) (a + n * (i + 1))).flatten = (bs.drop a).take (n * k) := by
  induction k with
  | zero => simp
  | succ k ih =>
    rw [List.range_succ, List.map_append, List.flatten_append, ih, Nat.mul_succ, List.take_add]
    simp [slice, Nat.mul_succ, ← Nat.add_assoc]

/-- Settles O33: the frames are consecutive slices behind the leading byte, and the rest follows them. -/
theorem notificationsSplitIntoFrames : Obligations.NotificationsSplitIntoFrames := by
  intro b0 b k
  have hk : k = rtCount b0 := rfl
  clear_value k
  subst hk
  refine ⟨fun h => ?_, fun h => if_pos h⟩
  refine ⟨_, _, if_neg (by omega), by simp, fun f hf => ?_, ?_⟩
  · obtain ⟨i, hi, rfl⟩ := List.mem_map.mp hf
    have hi : i < rtCount b0 := List.mem_range.mp hi
    rw [Nat.mul_succ, ← Nat.add_assoc]
    exact length_slice_of_le (by omega)
  · rw [flatten_slices, Nat.add_comm 1, List.drop_succ_cons, List.drop_succ_cons, List.drop_zero, List.take_append_drop]

/-! ### The anchor (rules R137, R185) -/

/-- Zero triplets repeat the first sample (rule R137). -/
theorem sample_of_zero {F : Type} (N : Num F) (h : F) (q0 : Quat F) {g : Nat → Counts} {n : Nat}
    (hg : ∀ j, 1 ≤ j → j ≤ n → (g j).isZero = true) : sample N h q0 g n = q0 := by
  induction n with
  | zero => rfl
  | succ n ih =>
    rw [sample_succ, nextSample_of_zero _ _ _ _ (hg _ (by omega) le_rfl), ih fun j h1 h2 => hg j h1 (by omega)]

/-- Settles O41: the samples after the anchor are those of zero triplets. -/
theorem zeroGyroRepeatsTheAnchor : Obligations.ZeroGyroRepeatsTheAnchor := by
  refine ⟨fun s hrate hzero => ?_, fun F N h q0 g n hg => sample_of_zero N h q0 fun j h1 h2 => by rw [hg j h1 h2]; rfl⟩
  obtain ⟨r, hr⟩ := exists_hz_eq_of_mem hrate
  refine ⟨extrapolate r s, exec_xtrap_of_rate (ofByte_of_toNat hr.symm), fun i => ?_⟩
  rw [Fin.getElem_fin, extrapolate_xq]
  refine sample_of_zero _ _ _ fun j h1 h2 => ?_
  have hj : j < 8 := by omega
  rw [State.counts_eq s j hj, isZero_countsOf]
  exact ⟨hzero ⟨j, hj⟩ 0 h1, hzero ⟨j, hj⟩ 1 h1, hzero ⟨j, hj⟩ 2 h1⟩

/-- `QDEC` leaves every operand of `XTRAP`. -/
theorem extrapolate_xq_qdec (r : SampleRate) (s : State) : (extrapolate r (qdec s)).xq = (extrapolate r s).xq := rfl

/-- Settles O43: both commands decode `Q64`, and neither writes an operand or a result of the other. -/
theorem anchorAgreesWithQdec : Obligations.AnchorAgreesWithQdec := by
  intro s hrate
  obtain ⟨r, hr⟩ := exists_hz_eq_of_mem hrate
  have rate := ofByte_of_toNat hr.symm
  refine ⟨qdec s, extrapolate r (qdec s), extrapolate r s, qdec (extrapolate r s), exec_eq .qdec s,
    exec_xtrap_of_rate (s := qdec s) rate, exec_xtrap_of_rate rate, exec_eq .qdec _, ?_, rfl, ?_, rfl, rfl, rfl, rfl,
    rfl, rfl⟩
  · rw [extrapolate_xq]; rfl
  · change (extrapolate r s).xq[0] = _
    rw [extrapolate_xq]; rfl

end Sys2Proof.Machine
end

section
/-!
PROOFS, family `other`, the extrapolation engine under `NUM = real` (rule R141): quaternions over the reals with their
product and norm, increments as turns about an axis, samples of norm 1, the closed form, and the largest half-angle.
-/

namespace Sys2Proof.Machine

/-! ### Quaternions over the reals -/

theorem quat_ext {p q : Quat ℝ} (hw : p.w = q.w) (hx : p.x = q.x) (hy : p.y = q.y) (hz : p.z = q.z) : p = q := by
  cases p; cases q; simp_all

theorem hamilton_realNum (p q : Quat ℝ) : hamilton realNum p q =
    ⟨p.w * q.w - p.x * q.x - p.y * q.y - p.z * q.z, p.w * q.x + p.x * q.w + p.y * q.z - p.z * q.y,
      p.w * q.y - p.x * q.z + p.y * q.w + p.z * q.x, p.w * q.z + p.x * q.y - p.y * q.x + p.z * q.w⟩ := rfl

theorem normSq_hamilton (p q : Quat ℝ) :
    Quat.normSq (hamilton realNum p q) = Quat.normSq p * Quat.normSq q := by
  rw [hamilton_realNum]
  simp only [Quat.normSq]
  ring

theorem hamilton_assoc (p q r : Quat ℝ) :
    hamilton realNum (hamilton realNum p q) r = hamilton realNum p (hamilton realNum q r) := by
  simp only [hamilton_realNum]
  refine quat_ext ?_ ?_ ?_ ?_ <;> ring

theorem hamilton_one (p : Quat ℝ) : hamilton realNum p ⟨1, 0, 0, 0⟩ = p := by
  rw [hamilton_realNum]
  refine quat_ext ?_ ?_ ?_ ?_ <;> simp

theorem normSq_nonneg (p : Quat ℝ) : 0 ≤ Quat.normSq p := by
  unfold Quat.normSq; positivity

/-- Normalising divides by the norm (rule R136). -/
theorem normalize_realNum (p : Quat ℝ) : normalize realNum p =
    ⟨p.w / √(Quat.normSq p), p.x / √(Quat.normSq p), p.y / √(Quat.normSq p), p.z / √(Quat.normSq p)⟩ := by
  have s : p.w * p.w + p.x * p.x + p.y * p.y + p.z * p.z = Quat.normSq p := by unfold Quat.normSq; ring
  rw [← s]; rfl

theorem normalize_of_normSq_eq_one {p : Quat ℝ} (h : Quat.normSq p = 1) : normalize realNum p = p := by
  rw [normalize_realNum, h]
  refine quat_ext ?_ ?_ ?_ ?_ <;> simp

theorem normSq_normalize {p : Quat ℝ} (h : 0 < Quat.normSq p) : Quat.normSq (normalize realNum p) = 1 := by
  rw [normalize_realNum]
  simp only [Quat.normSq, div_pow]
  rw [← add_div, ← add_div, ← add_div]
  change Quat.normSq p / √(Quat.normSq p) ^ 2 = 1
  rw [Real.sq_sqrt h.le, div_self h.ne']

/-! ### Rates and increments -/

/-- The length of the rate vector of a triplet, in rad/s. -/
noncomputable def rateNorm (g : Counts) : ℝ :=
  let w := rateOf realNum g
  √(w.1 ^ 2 + w.2.1 ^ 2 + w.2.2 ^ 2)

theorem rateOf_realNum (g : Counts) : rateOf realNum g =
    ((g.x : ℝ) * RealConst.value .gyrk, (g.y : ℝ) * RealConst.value .gyrk, (g.z : ℝ) * RealConst.value .gyrk) := rfl

theorem gyrk_pos : 0 < RealConst.value .gyrk := by
  unfold RealConst.value
  have := Real.pi_pos
  positivity

theorem sq_rateNorm (g : Counts) : rateNorm g ^ 2 =
    (rateOf realNum g).1 ^ 2 + (rateOf realNum g).2.1 ^ 2 + (rateOf realNum g).2.2 ^ 2 :=
  Real.sq_sqrt (by positivity)

/-- A non-zero triplet has a rate. -/
theorem rateNorm_pos {g : Counts} (h : g.isZero = false) : 0 < rateNorm g := by
  have hg : ¬ (g.x = 0 ∧ g.y = 0 ∧ g.z = 0) := of_decide_eq_false h
  refine Real.sqrt_pos.mpr ?_
  simp only [rateOf_realNum]
  have hk := gyrk_pos
  by_contra hle
  have hx := sq_nonneg ((g.x : ℝ) * RealConst.value .gyrk)
  have hy := sq_nonneg ((g.y : ℝ) * RealConst.value .gyrk)
  have hz := sq_nonneg ((g.z : ℝ) * RealConst.value .gyrk)
  have zero (c : Int) (hc : ((c : ℝ) * RealConst.value .gyrk) ^ 2 = 0) : c = 0 := by
    simpa [hk.ne'] using hc
  exact hg ⟨zero _ (by linarith), zero _ (by linarith), zero _ (by linarith)⟩

/-- The turn by the half-angle `a` about the axis of a triplet's rate. -/
noncomputable def turn (g : Counts) (a : ℝ) : Quat ℝ :=
  let w := rateOf realNum g
  ⟨Real.cos a, Real.sin a * (w.1 / rateNorm g), Real.sin a * (w.2.1 / rateNorm g), Real.sin a * (w.2.2 / rateNorm g)⟩

/-- The increment of a triplet (rule R134) is a turn. -/
theorem deltaQ_eq_turn (g : Counts) (h : ℝ) :
    deltaQ realNum (rateOf realNum g).1 (rateOf realNum g).2.1 (rateOf realNum g).2.2 h = turn g (rateNorm g * h) := by
  simp only [deltaQ, realNum, turn, rateNorm, pow_two]
  refine quat_ext rfl ?_ ?_ ?_ <;> ring

section
variable {g : Counts} (hg : g.isZero = false)
include hg

/-- The axis of a turn has length 1. -/
theorem axis_normSq : ((rateOf realNum g).1 / rateNorm g) ^ 2 + ((rateOf realNum g).2.1 / rateNorm g) ^ 2
    + ((rateOf realNum g).2.2 / rateNorm g) ^ 2 = 1 := by
  have := rateNorm_pos hg
  rw [div_pow, div_pow, div_pow, ← add_div, ← add_div, ← sq_rateNorm, div_self (by positivity)]

theorem normSq_turn (a : ℝ) : Quat.normSq (turn g a) = 1 := by
  have axis := axis_normSq hg
  have circle := Real.sin_sq_add_cos_sq a
  simp only [turn, Quat.normSq]
  linear_combination Real.sin a ^ 2 * axis + circle

/-- Turns about one axis add up. -/
theorem hamilton_turn (a b : ℝ) : hamilton realNum (turn g a) (turn g b) = turn g (a + b) := by
  have axis := axis_normSq hg
  rw [hamilton_realNum]
  simp only [turn]
  refine quat_ext ?_ ?_ ?_ ?_
  · simp only [Real.cos_add]
    linear_combination (-Real.sin a * Real.sin b) * axis
  all_goals
    simp only [Real.sin_add]
    ring

end

/-! ### The recurrence -/

theorem nextSample_realNum {g : Counts} (hg : g.isZero = false) (h : ℝ) (p : Quat ℝ) :
    nextSample realNum h p g = normalize realNum (hamilton realNum p (turn g (rateNorm g * h))) := by
  rw [← deltaQ_eq_turn, nextSample, if_neg (by simp [hg])]

theorem normSq_hamilton_turn {g : Counts} (hg : g.isZero = false) (p : Quat ℝ) (a : ℝ) :
    Quat.normSq (hamilton realNum p (turn g a)) = Quat.normSq p := by
  rw [normSq_hamilton, normSq_turn hg, mul_one]

/-- After a sample of norm 1 normalising changes nothing. -/
theorem nextSample_of_normSq_eq_one {g : Counts} (hg : g.isZero = false) (h : ℝ) {p : Quat ℝ}
    (hp : Quat.normSq p = 1) : nextSample realNum h p g = hamilton realNum p (turn g (rateNorm g * h)) := by
  rw [nextSample_realNum hg, normalize_of_normSq_eq_one ((normSq_hamilton_turn hg p _).trans hp)]

/-- Settles O44: an increment is a turn, and a turn keeps the norm. -/
theorem incrementsAreUnitUnderReal : Obligations.IncrementsAreUnitUnderReal := by
  intro g h p hg w dq
  have hdq : dq = turn g (rateNorm g * h) := deltaQ_eq_turn g h
  rw [hdq]
  exact ⟨normSq_turn hg _, fun hp => normalize_of_normSq_eq_one ((normSq_hamilton_turn hg p _).trans hp)⟩

/-- A non-zero triplet after a sample that is not zero gives a sample of norm 1. -/
theorem normSq_nextSample {g : Counts} (hg : g.isZero = false) (h : ℝ) {p : Quat ℝ} (hp : 0 < Quat.normSq p) :
    Quat.normSq (nextSample realNum h p g) = 1 := by
  rw [nextSample_realNum hg]
  exact normSq_normalize ((normSq_hamilton_turn hg p _).symm ▸ hp)

theorem normSq_sample_pos {q0 : Quat ℝ} (hq : 0 < Quat.normSq q0) (h : ℝ) (g : Nat → Counts) (i : Nat) :
    0 < Quat.normSq (sample realNum h q0 g i) := by
  induction i with
  | zero => exact hq
  | succ i ih =>
    rw [sample_succ]
    cases hg : (g (i + 1)).isZero with
    | true => rwa [nextSample_of_zero _ _ _ _ hg]
    | false => rw [normSq_nextSample hg h ih]; exact one_pos

/-- From the first non-zero triplet on, samples have norm 1, whatever the anchor. -/
theorem normSq_sample {q0 : Quat ℝ} (hq : 0 < Quat.normSq q0) (h : ℝ) (g : Nat → Counts) {i j : Nat} (h1 : 1 ≤ j)
    (hj : j ≤ i) (hg : (g j).isZero = false) : Quat.normSq (sample realNum h q0 g i) = 1 := by
  induction i with
  | zero => omega
  | succ i ih =>
    rw [sample_succ]
    cases hi : (g (i + 1)).isZero with
    | false => exact normSq_nextSample hi h (normSq_sample_pos hq h g i)
    | true =>
      have : j ≠ i + 1 := by rintro rfl; simp [hg] at hi
      rw [nextSample_of_zero _ _ _ _ hi]
      exact ih (by omega)

/-- Settles O47: each sample turns the one before by one more half-angle. -/
theorem constantRateClosedForm : Obligations.ConstantRateClosedForm := by
  intro q0 h c i hq hc w n a
  change sample realNum h q0 (fun _ => c) i = hamilton realNum q0 (turn c ((i : ℝ) * (rateNorm c * h)))
  clear w n a
  induction i with
  | zero =>
    have start : turn c 0 = ⟨1, 0, 0, 0⟩ := by simp [turn]
    rw [Nat.cast_zero, zero_mul, start, hamilton_one]
    rfl
  | succ i ih =>
    rw [sample_succ, ih, nextSample_of_normSq_eq_one hc h ((normSq_hamilton_turn hc q0 _).trans hq), hamilton_assoc,
      hamilton_turn hc, Nat.cast_succ, add_one_mul]

/-! ### The largest half-angle -/

/-- The rate vector of any counts is at most `√3 · 2000°/s` long. -/
theorem rateNorm_le {g : Counts} (hx : |g.x| ≤ 32768) (hy : |g.y| ≤ 32768) (hz : |g.z| ≤ 32768) :
    rateNorm g ≤ 60.46 := by
  have hk := gyrk_pos
  have one (c : Int) (hc : |c| ≤ 32768) : ((c : ℝ) * RealConst.value .gyrk) ^ 2 ≤ 34.90659 ^ 2 := by
    have hc' : |(c : ℝ)| ≤ 32768 := by exact_mod_cast hc
    have hpi : 32768 * RealConst.value .gyrk ≤ 34.90659 := by
      unfold RealConst.value
      linarith [Real.pi_lt_d6]
    rw [← sq_abs, abs_mul, abs_of_pos hk]
    have : |(c : ℝ)| * RealConst.value .gyrk ≤ 34.90659 := by nlinarith
    gcongr
  refine Real.sqrt_le_iff.mpr ⟨by norm_num, ?_⟩
  simp only [rateOf_realNum]
  linarith [one g.x hx, one g.y hy, one g.z hz, show (3 : ℝ) * 34.90659 ^ 2 ≤ 60.46 ^ 2 by norm_num]

/-- Settles O46: the longest rate vector over the longest half period. -/
theorem halfAngleIsBounded : Obligations.HalfAngleIsBounded := by
  intro g r hx hx' hy hy' hz hz' w th
  have hn : rateNorm g ≤ 60.46 :=
    rateNorm_le (abs_le.mpr ⟨hx, by omega⟩) (abs_le.mpr ⟨hy, by omega⟩) (abs_le.mpr ⟨hz, by omega⟩)
  have hth : th = rateNorm g / (2 * (SampleRate.hertz r : ℝ)) := mul_one_div _ _
  rw [hth]
  refine ⟨?_, ?_⟩
  · have hr : (1 : ℝ) ≤ SampleRate.hertz r := by exact_mod_cast (by cases r <;> decide : 1 ≤ SampleRate.hertz r)
    rw [div_le_iff₀ (by positivity)]
    linarith
  · rintro rfl
    rw [div_le_iff₀ (by norm_num [SampleRate.hertz])]
    norm_num [SampleRate.hertz]
    linarith

end Sys2Proof.Machine
end

section
/-!
PROOFS, family `other`, the quaternion decoder under `NUM = real` (rules R115 to R122): where each component of a decoded
quaternion comes from, its norm, and the reference encoder, whose fields the decoder reads back.
-/

namespace Sys2Proof.Machine

/-! ### Components by their place (rule R116) -/

theorem get_placeQuat {F : Type} (axis : BitVec 2) (m c0 c1 c2 : F) (i : Fin 4) :
    Quat.get (placeQuat axis m c0 c1 c2) i = placeComponent axis m c0 c1 c2 (BitVec.ofNat 2 i.val) := by
  fin_cases i <;> rfl

theorem placeComponent_axis {F : Type} (axis : BitVec 2) (m c0 c1 c2 : F) :
    placeComponent axis m c0 c1 c2 axis = m := if_pos rfl

/-- Away from the axis stands one of the stored components. -/
theorem placeComponent_stored {F : Type} {P : F → Prop} {axis i : BitVec 2} {m c0 c1 c2 : F} (hi : i ≠ axis)
    (h0 : P c0) (h1 : P c1) (h2 : P c2) : P (placeComponent axis m c0 c1 c2 i) := by
  rw [placeComponent, if_neg hi]
  split
  · exact h0
  · split
    · exact h1
    · exact h2

/-- Each component is placed once. -/
theorem normSq_placeQuat (axis : BitVec 2) (m c0 c1 c2 : ℝ) :
    Quat.normSq (placeQuat axis m c0 c1 c2) = m ^ 2 + (c0 ^ 2 + c1 ^ 2 + c2 ^ 2) := by
  have cases4 : ∀ a : BitVec 2, a = 0#2 ∨ a = 1#2 ∨ a = 2#2 ∨ a = 3#2 := by decide
  obtain rfl | rfl | rfl | rfl := cases4 axis
  · rw [placeQuat_zero, Quat.normSq]; ring
  · rw [placeQuat_one, Quat.normSq]; ring
  · rw [placeQuat_two, Quat.normSq]; ring
  · rw [placeQuat_three, Quat.normSq]; ring

/-! ### The stored components (rule R115) -/

theorem dequant_realNum (r : BitVec 20) :
    dequant realNum r = (r.toNat : ℝ) / RealConst.value .k1 - RealConst.value .k2 := by
  have : ((r.toNat : Int) : ℝ) = (r.toNat : ℝ) := Int.cast_natCast _
  rw [← this]; rfl

theorem k1_pos : 0 < RealConst.value .k1 := by
  unfold RealConst.value; positivity

/-- The raw fields run from `−K2` to `K2`. -/
theorem k2_mul_k1 : 2 * RealConst.value .k2 * RealConst.value .k1 = 1048575 := by
  have h : √2 * √2 = 2 := Real.mul_self_sqrt (by norm_num)
  have h0 : √2 ≠ 0 := by positivity
  simp only [RealConst.value]
  field_simp
  linarith

theorem sq_k2 : RealConst.value .k2 ^ 2 = 1 / 2 := by
  simp only [RealConst.value]
  rw [div_pow, Real.sq_sqrt (by norm_num)]
  norm_num

theorem abs_dequant_le (r : BitVec 20) : |dequant realNum r| ≤ RealConst.value .k2 := by
  have hr : (r.toNat : ℝ) ≤ 1048575 := by exact_mod_cast Nat.le_of_lt_succ r.isLt
  have upper : (r.toNat : ℝ) / RealConst.value .k1 ≤ 2 * RealConst.value .k2 := by
    rwa [div_le_iff₀ k1_pos, k2_mul_k1]
  have lower : 0 ≤ (r.toNat : ℝ) / RealConst.value .k1 := div_nonneg (Nat.cast_nonneg _) k1_pos.le
  rw [dequant_realNum, abs_le]
  constructor <;> linarith

theorem sq_dequant_le (r : BitVec 20) : dequant realNum r ^ 2 ≤ 1 / 2 := by
  rw [← sq_k2, ← sq_abs]
  have := abs_dequant_le r
  gcongr

theorem storedSq_nonneg (w : DWord) : 0 ≤ storedSq w := by
  unfold storedSq; positivity

theorem storedSq_le (w : DWord) : storedSq w ≤ 3 / 2 := by
  have h0 := sq_dequant_le (rawField0 w)
  have h1 := sq_dequant_le (rawField1 w)
  have h2 := sq_dequant_le (rawField2 w)
  unfold storedSq
  linarith

/-! ### The omitted component (rule R117) -/

/-- The omitted component of a word under `NUM = real`. -/
noncomputable def omittedOf (w : DWord) : ℝ :=
  omitted realNum (dequant realNum (rawField0 w)) (dequant realNum (rawField1 w)) (dequant realNum (rawField2 w))

theorem omittedOf_eq (w : DWord) : omittedOf w = if 1 - storedSq w < 0 then 0 else √(1 - storedSq w) := by
  simp only [omittedOf, omitted, storedSq, realNum, RealConst.value, pow_two, decide_eq_true_eq]

theorem sq_omittedOf {w : DWord} (h : storedSq w ≤ 1) : omittedOf w ^ 2 = 1 - storedSq w := by
  rw [omittedOf_eq, if_neg (by linarith), Real.sq_sqrt (by linarith)]

theorem omittedOf_degenerate {w : DWord} (h : 1 < storedSq w) : omittedOf w = 0 := by
  rw [omittedOf_eq, if_pos (by linarith)]

theorem omittedOf_nonneg (w : DWord) : 0 ≤ omittedOf w := by
  rw [omittedOf_eq]
  split
  · exact le_rfl
  · exact Real.sqrt_nonneg _

theorem omittedOf_le_one (w : DWord) : omittedOf w ≤ 1 := by
  rw [omittedOf_eq]
  split
  · exact zero_le_one
  · exact Real.sqrt_le_one.mpr (by linarith [storedSq_nonneg w])

/-! ### The decoded quaternion (rules R118, R120) -/

/-- The quaternion that a word decodes to under `NUM = real`. -/
theorem q3Decode_realNum (w : DWord) : (q3Decode realNum w).q =
    placeQuat (axisField w) (omittedOf w) (dequant realNum (rawField0 w)) (dequant realNum (rawField1 w))
      (dequant realNum (rawField2 w)) := q3Decode_q_of_axis realNum rfl

theorem normSq_q3Decode (w : DWord) : Quat.normSq (q3Decode realNum w).q = omittedOf w ^ 2 + storedSq w := by
  rw [q3Decode_realNum, normSq_placeQuat, storedSq]

/-- A decoded anchor is never zero. -/
theorem one_le_normSq_q3Decode (w : DWord) : 1 ≤ Quat.normSq (q3Decode realNum w).q := by
  rw [normSq_q3Decode]
  by_cases h : storedSq w ≤ 1
  · rw [sq_omittedOf h]; linarith
  · linarith [sq_nonneg (omittedOf w)]

/-- Settles O35: the omitted component stands at the axis and the stored ones elsewhere. -/
theorem decodedNormUnderReal : Obligations.DecodedNormUnderReal := by
  intro w d
  have comp (i : Fin 4) : Quat.get d.q i = placeComponent (axisField w) (omittedOf w) (dequant realNum (rawField0 w))
      (dequant realNum (rawField1 w)) (dequant realNum (rawField2 w)) (BitVec.ofNat 2 i.val) := by
    rw [← get_placeQuat, ← q3Decode_realNum]
  have atAxis {i : Fin 4} (hi : BitVec.ofNat 2 i.val = d.axis) : Quat.get d.q i = omittedOf w := by
    rw [comp, hi]
    exact placeComponent_axis ..
  have away {i : Fin 4} (hi : BitVec.ofNat 2 i.val ≠ d.axis) : |Quat.get d.q i| ≤ RealConst.value .k2 := by
    rw [comp]
    exact placeComponent_stored (P := fun c => |c| ≤ RealConst.value .k2) hi (abs_dequant_le _) (abs_dequant_le _)
      (abs_dequant_le _)
  have k2_le_one : RealConst.value .k2 ≤ 1 := by nlinarith [sq_k2]
  refine ⟨fun i => ⟨?_, away, fun hi => ?_⟩, fun h => ?_, fun h => ⟨?_, storedSq_le w, fun i hi => ?_⟩⟩
  · by_cases hi : BitVec.ofNat 2 i.val = d.axis
    · rw [atAxis hi, abs_of_nonneg (omittedOf_nonneg w)]
      exact omittedOf_le_one w
    · exact (away hi).trans k2_le_one
  · rw [atAxis hi]
    exact omittedOf_nonneg w
  · rw [normSq_q3Decode, sq_omittedOf h]
    ring
  · rw [normSq_q3Decode, omittedOf_degenerate h]
    ring
  · rw [atAxis hi, omittedOf_degenerate h]

/-- Settles O45: the anchor is not zero, so the first non-zero triplet normalises. -/
theorem samplesAreUnitUnderReal : Obligations.SamplesAreUnitUnderReal := by
  intro w h g i out
  refine ⟨fun ⟨j, h1, hj, hg⟩ => normSq_sample ?_ h g h1 hj hg, fun hg => ?_⟩
  · exact one_pos.trans_le (one_le_normSq_q3Decode w)
  · exact (sample_of_zero _ _ _ hg).trans (sample_zero ..).symm

/-! ### The reference encoder (rules R121, R122) -/

/-- Halves of a concatenation. -/
theorem extractLsb'_append_right {n k : Nat} (x : BitVec n) (y : BitVec k) : (x ++ y).extractLsb' 0 k = y := by
  rw [BitVec.extractLsb'_append_eq_of_add_le (by omega), BitVec.extractLsb'_eq_self]

theorem extractLsb'_append_left {n k : Nat} (x : BitVec n) (y : BitVec k) {start len a : Nat} (h : start = a + k) :
    (x ++ y).extractLsb' start len = x.extractLsb' a len := by
  rw [BitVec.extractLsb'_append_eq_of_le (by omega), h, Nat.add_sub_cancel]

theorem getLsbD_append_left {n k : Nat} (x : BitVec n) (y : BitVec k) {i a : Nat} (h : i = a + k) :
    (x ++ y).getLsbD i = x.getLsbD a := by
  rw [BitVec.getLsbD_append, if_neg (by omega), h, Nat.add_sub_cancel]

section
variable (q : Quat ℝ) (rest mag : Bool)

theorem rawField0_q3EncodeRef :
    rawField0 (q3EncodeRef q rest mag) = quantise (Quat.get (keptQuat q) (largestIndex q + 3)) :=
  extractLsb'_append_right _ _

theorem rawField1_q3EncodeRef :
    rawField1 (q3EncodeRef q rest mag) = quantise (Quat.get (keptQuat q) (largestIndex q + 2)) :=
  (extractLsb'_append_left _ _ (a := 0) rfl).trans (extractLsb'_append_right _ _)

theorem rawField2_q3EncodeRef :
    rawField2 (q3EncodeRef q rest mag) = quantise (Quat.get (keptQuat q) (largestIndex q + 1)) :=
  (extractLsb'_append_left _ _ (a := 20) rfl).trans <| (extractLsb'_append_left _ _ (a := 0) rfl).trans
    (extractLsb'_append_right _ _)

theorem axisField_q3EncodeRef : axisField (q3EncodeRef q rest mag) = BitVec.ofNat 2 (largestIndex q).val :=
  (extractLsb'_append_left _ _ (a := 40) rfl).trans <| (extractLsb'_append_left _ _ (a := 20) rfl).trans <|
    (extractLsb'_append_left _ _ (a := 0) rfl).trans (extractLsb'_append_right _ _)

theorem restField_q3EncodeRef : restField (q3EncodeRef q rest mag) = rest :=
  (getLsbD_append_left _ _ (a := 42) rfl).trans <| (getLsbD_append_left _ _ (a := 22) rfl).trans <|
    (getLsbD_append_left _ _ (a := 2) rfl).trans <| (getLsbD_append_left _ _ (a := 0) rfl).trans <| by
      cases mag <;> cases rest <;> rfl

theorem magField_q3EncodeRef : magField (q3EncodeRef q rest mag) = mag :=
  (getLsbD_append_left _ _ (a := 43) rfl).trans <| (getLsbD_append_left _ _ (a := 23) rfl).trans <|
    (getLsbD_append_left _ _ (a := 3) rfl).trans <| (getLsbD_append_left _ _ (a := 1) rfl).trans <| by
      cases mag <;> cases rest <;> rfl

end

/-- The field order of the encoder is the one the decoder places by (rules R116, R121). -/
theorem placeComponent_fields {F : Type} (f : Fin 4 → F) (m : F) {axis c : Fin 4} (h : c ≠ axis) :
    placeComponent (BitVec.ofNat 2 axis.val) m (f (axis + 3)) (f (axis + 2)) (f (axis + 1)) (BitVec.ofNat 2 c.val) =
      f c := by
  have others : ∀ a b : Fin 4, b ≠ a → b = a + 3 ∨ b = a + 2 ∨ b = a + 1 := by decide
  obtain rfl | rfl | rfl := others axis c h <;> fin_cases axis <;> rfl

/-- A stored component comes back as its quantised value. -/
theorem get_q3Decode_q3EncodeRef (q : Quat ℝ) (rest mag : Bool) {c : Fin 4} (h : c ≠ largestIndex q) :
    Quat.get (q3Decode realNum (q3EncodeRef q rest mag)).q c =
      dequant realNum (quantise (Quat.get (keptQuat q) c)) := by
  rw [q3Decode_realNum, get_placeQuat, axisField_q3EncodeRef, rawField0_q3EncodeRef, rawField1_q3EncodeRef,
    rawField2_q3EncodeRef]
  exact placeComponent_fields (fun i => dequant realNum (quantise (Quat.get (keptQuat q) i))) _ h

/-- In the range of the stored components the encoder rounds to the nearest step. -/
theorem abs_dequant_quantise_sub_le {c : ℝ} (h : |c| ≤ RealConst.value .k2) :
    |dequant realNum (quantise c) - c| ≤ 1 / (2 * RealConst.value .k1) := by
  obtain ⟨hlo, hhi⟩ := abs_le.mp h
  have hk := k1_pos
  set x := (c + RealConst.value .k2) * RealConst.value .k1 with hx
  have x_nonneg : 0 ≤ x := mul_nonneg (by linarith) hk.le
  have x_le : x ≤ 1048575 := by
    rw [← k2_mul_k1]
    exact mul_le_mul_of_nonneg_right (by linarith) hk.le
  have floor_nonneg : 0 ≤ ⌊x + 1 / 2⌋ := Int.floor_nonneg.mpr (by linarith)
  have floor_le : ⌊x + 1 / 2⌋ ≤ 1048575 :=
    Int.lt_add_one_iff.mp (Int.floor_lt.mpr (by push_cast; linarith))
  have field : ((quantise c).toNat : ℝ) = ⌊x + 1 / 2⌋ := by
    have toNat : ((quantise c).toNat : Int) = ⌊x + 1 / 2⌋ := by
      rw [quantise, ← hx, max_eq_right floor_nonneg, min_eq_right floor_le, BitVec.toNat_ofInt]
      omega
    exact_mod_cast toNat
  have back : dequant realNum (quantise c) - c = (⌊x + 1 / 2⌋ - x) / RealConst.value .k1 := by
    rw [dequant_realNum, field, hx]
    field_simp
    ring
  have near : |(⌊x + 1 / 2⌋ : ℝ) - x| ≤ 1 / 2 := by
    rw [abs_le]
    constructor <;> linarith [Int.floor_le (x + 1 / 2), Int.lt_floor_add_one (x + 1 / 2)]
  rw [back, abs_div, abs_of_pos hk, ← div_div]
  gcongr

/-- The component the encoder omits has the largest magnitude. -/
theorem abs_get_le_largest (q : Quat ℝ) (c : Fin 4) : |Quat.get q c| ≤ |Quat.get q (largestIndex q)| := by
  have hbig : |Quat.get q (largestIndex q)| = max (max |q.w| |q.x|) (max |q.y| |q.z|) := by
    unfold largestIndex
    dsimp only
    split_ifs with hw hx hy
    · exact hw
    · exact hx
    · exact hy
    · obtain h | h := max_choice (max |q.w| |q.x|) (max |q.y| |q.z|)
      · obtain h' | h' := max_choice |q.w| |q.x| <;> rw [h, h'] at hw hx <;> simp_all
      · obtain h' | h' := max_choice |q.y| |q.z| <;> rw [h, h'] at hy ⊢
        · exact absurd rfl hy
        · rfl
  rw [hbig]
  fin_cases c <;> simp [Quat.get]

theorem normSq_eq_sum (q : Quat ℝ) : Quat.normSq q = ∑ i : Fin 4, Quat.get q i ^ 2 :=
  (Fin.sum_univ_four fun i => Quat.get q i ^ 2).symm

/-- In a unit quaternion every component but the largest is at most `K2`. -/
theorem abs_get_le_k2 {q : Quat ℝ} (hq : Quat.normSq q = 1) {c : Fin 4} (hc : c ≠ largestIndex q) :
    |Quat.get q c| ≤ RealConst.value .k2 := by
  have two : Quat.get q c ^ 2 + Quat.get q (largestIndex q) ^ 2 ≤ 1 := by
    rw [← hq, normSq_eq_sum, ← Finset.sum_pair (f := fun i => Quat.get q i ^ 2) hc]
    exact Finset.sum_le_sum_of_subset_of_nonneg (Finset.subset_univ _) fun _ _ _ => sq_nonneg _
  have le := pow_le_pow_left₀ (abs_nonneg _) (abs_get_le_largest q c) 2
  rw [sq_abs, sq_abs] at le
  have k2_nonneg : 0 ≤ RealConst.value .k2 := by unfold RealConst.value; positivity
  refine abs_le_of_sq_le_sq ?_ k2_nonneg
  rw [sq_k2]
  linarith

/-- The encoder keeps the quaternion or its opposite. -/
theorem abs_get_keptQuat (q : Quat ℝ) (c : Fin 4) : |Quat.get (keptQuat q) c| = |Quat.get q c| := by
  have negated : Quat.get (Quat.negated q) c = -Quat.get q c := by fin_cases c <;> rfl
  unfold keptQuat
  split
  · rw [negated, abs_neg]
  · rfl

/-- Settles O37: the decoder reads back the encoder's fields, and a stored component is in the range of its field. -/
theorem storedComponentsComeBackWithinHalfAStep : Obligations.StoredComponentsComeBackWithinHalfAStep := by
  intro q rest mag hq d
  refine ⟨restField_q3EncodeRef q rest mag, magField_q3EncodeRef q rest mag, axisField_q3EncodeRef q rest mag,
    fun c hc => ?_⟩
  rw [get_q3Decode_q3EncodeRef q rest mag hc]
  refine abs_dequant_quantise_sub_le ?_
  rw [abs_get_keptQuat]
  exact abs_get_le_k2 hq hc

end Sys2Proof.Machine
end

section
/-!
PROOFS, family `other`, binary32 patterns (rule R111). A pattern is a sign and a magnitude of 31 bits; the magnitudes of
the finite numbers count up through multiples of `2^-149`, and the value of a pattern is that count with its sign.
-/

namespace Sys2Proof.Machine

/-! ### Sign and magnitude -/

/-- The low 31 bits. -/
def F32.mag (a : F32) : Nat := a.toNat % 2 ^ 31

theorem toNat_pack (neg : Bool) {M : Nat} (hM : M < 2 ^ 31) :
    (F32.pack neg M).toNat = M + if neg then 2 ^ 31 else 0 := by
  rw [F32.pack, BitVec.toNat_ofNat, Nat.mod_eq_of_lt]
  split <;> omega

theorem sign_eq (a : F32) : F32.sign a = decide (2 ^ 31 ≤ a.toNat) := by
  have := a.isLt
  rw [F32.sign, BitVec.getLsbD, Nat.testBit_eq_decide_div_mod_eq, decide_eq_decide]
  omega

theorem expField_eq (a : F32) : F32.expField a = F32.mag a / 2 ^ 23 := by
  rw [F32.expField, BitVec.extractLsb'_toNat, Nat.shiftRight_eq_div_pow, F32.mag]
  omega

theorem fracField_eq (a : F32) : F32.fracField a = F32.mag a % 2 ^ 23 := by
  rw [F32.fracField, BitVec.extractLsb'_toNat, Nat.shiftRight_zero, F32.mag]
  omega

theorem mag_pack (neg : Bool) {M : Nat} (hM : M < 2 ^ 31) : F32.mag (F32.pack neg M) = M := by
  rw [F32.mag, toNat_pack neg hM]
  split <;> omega

theorem sign_pack (neg : Bool) {M : Nat} (hM : M < 2 ^ 31) : F32.sign (F32.pack neg M) = neg := by
  rw [sign_eq, toNat_pack neg hM]
  cases neg
  · simpa using hM
  · simp

theorem mag_lt (a : F32) : F32.mag a < 2 ^ 31 := Nat.mod_lt _ (by norm_num)

/-- A pattern is its sign and its magnitude. -/
theorem pack_sign_mag (a : F32) : F32.pack (F32.sign a) (F32.mag a) = a := by
  have := a.isLt
  refine BitVec.eq_of_toNat_eq ?_
  rw [toNat_pack _ (mag_lt a), sign_eq, F32.mag]
  by_cases h : 2 ^ 31 ≤ a.toNat
  · rw [if_pos (decide_eq_true h)]; omega
  · rw [if_neg (by simpa using h)]; omega

/-! ### The value of a magnitude -/

/-- The value of a magnitude in units of `2^-149`. -/
def magUnits (M : Nat) : Nat := if M < 2 ^ 23 then M else (2 ^ 23 + M % 2 ^ 23) * 2 ^ (M / 2 ^ 23 - 1)

/-- The sign as a factor. -/
def signFactor (neg : Bool) : ℝ := if neg then -1 else 1

theorem signFactor_mul_abs (x : ℝ) : signFactor (decide (x < 0)) * |x| = x := by
  unfold signFactor
  by_cases h : x < 0
  · simp [h, abs_of_neg h]
  · simp [h, abs_of_nonneg (not_lt.mp h)]

theorem signFactor_mul_natAbs (n : ℤ) : signFactor (decide (n < 0)) * (n.natAbs : ℝ) = n := by
  have sign : decide (n < 0) = decide ((n : ℝ) < 0) := by rw [decide_eq_decide]; exact Int.cast_lt_zero.symm
  rw [sign, Nat.cast_natAbs, Int.cast_abs, signFactor_mul_abs]

theorem kind_of_mag_lt {a : F32} (h : F32.mag a < F32.infMag) :
    F32.kind a = if F32.mag a < 2 ^ 23 then .fin (F32.sign a) (F32.mag a) (-149)
      else .fin (F32.sign a) (2 ^ 23 + F32.mag a % 2 ^ 23) ((F32.mag a / 2 ^ 23 : Nat) - 150) := by
  have h255 : F32.mag a / 2 ^ 23 ≠ 255 := by unfold F32.infMag at h; omega
  rw [F32.kind, expField_eq, fracField_eq, if_neg h255]
  by_cases hs : F32.mag a < 2 ^ 23
  · rw [if_pos (by omega), if_pos hs, Nat.mod_eq_of_lt hs]
  · rw [if_neg (by omega), if_neg hs]

/-- From the magnitude of the infinities on a pattern is no finite number. -/
theorem isFinite_iff (a : F32) : F32.isFinite a = true ↔ F32.mag a < F32.infMag := by
  constructor
  · intro hfin
    by_contra h
    have := mag_lt a
    have h255 : F32.mag a / 2 ^ 23 = 255 := by unfold F32.infMag at h; omega
    rw [F32.isFinite, F32.kind, expField_eq, if_pos h255] at hfin
    by_cases hfrac : F32.fracField a = 0
    · rw [if_pos hfrac] at hfin; cases hfin
    · rw [if_neg hfrac] at hfin; cases hfin
  · intro h
    rw [F32.isFinite, kind_of_mag_lt h]
    by_cases hs : F32.mag a < 2 ^ 23
    · rw [if_pos hs]
    · rw [if_neg hs]

/-- A finite number is a whole number of units of `2^-149`. -/
theorem toReal_of_mag_lt {a : F32} (h : F32.mag a < F32.infMag) :
    F32.toReal a = signFactor (F32.sign a) * (magUnits (F32.mag a) : ℝ) * (2 : ℝ) ^ (-149 : ℤ) := by
  rw [F32.toReal, kind_of_mag_lt h]
  by_cases hs : F32.mag a < 2 ^ 23
  · rw [if_pos hs, magUnits, if_pos hs]; rfl
  · rw [if_neg hs, magUnits, if_neg hs]
    obtain ⟨k, hk⟩ : ∃ k, F32.mag a / 2 ^ 23 = k + 1 := ⟨F32.mag a / 2 ^ 23 - 1, by omega⟩
    have scale : (2 : ℝ) ^ (((k + 1 : Nat) : ℤ) - 150) = 2 ^ k * 2 ^ (-149 : ℤ) := by
      rw [← zpow_natCast, ← zpow_add₀ two_ne_zero]
      congr 1
      push_cast; ring
    simp only [hk, Nat.add_sub_cancel, scale, signFactor]
    push_cast
    ring

theorem toReal_pack (neg : Bool) {M : Nat} (h : M < F32.infMag) :
    F32.toReal (F32.pack neg M) = signFactor neg * (magUnits M : ℝ) * (2 : ℝ) ^ (-149 : ℤ) := by
  have h31 : M < 2 ^ 31 := h.trans (by norm_num)
  rw [toReal_of_mag_lt (by rwa [mag_pack neg h31]), mag_pack neg h31, sign_pack neg h31]

theorem isFinite_pack (neg : Bool) {M : Nat} (h : M < F32.infMag) : F32.isFinite (F32.pack neg M) = true := by
  rw [isFinite_iff, mag_pack neg (h.trans (by norm_num))]
  exact h

/-! ### How the magnitudes count -/

/-- The magnitude that counts `m` units in the last place of `2^k` units each, a carry out of the significand
included. -/
theorem magUnits_ulp {k m : Nat} (hm : m ≤ 2 ^ 24) (hk : k = 0 ∨ 2 ^ 23 ≤ m) :
    magUnits (k * 2 ^ 23 + m) = m * 2 ^ k := by
  by_cases hs : k * 2 ^ 23 + m < 2 ^ 23
  · obtain rfl : k = 0 := by omega
    rw [magUnits, if_pos hs]; simp
  rw [magUnits, if_neg hs]
  obtain hlt | rfl := hm.lt_or_eq
  · rw [show (k * 2 ^ 23 + m) % 2 ^ 23 = m - 2 ^ 23 by omega, show (k * 2 ^ 23 + m) / 2 ^ 23 - 1 = k by omega,
      Nat.add_sub_cancel' (by omega)]
  · rw [show (k * 2 ^ 23 + 2 ^ 24) % 2 ^ 23 = 0 by omega, show (k * 2 ^ 23 + 2 ^ 24) / 2 ^ 23 - 1 = k + 1 by omega,
      pow_succ]
    ring

/-- A magnitude whose count is no multiple of `2^k` lies below the numbers whose last place is `2^k`. -/
theorem two_pow_dvd_magUnits_or_lt (k N : Nat) : 2 ^ k ∣ magUnits N ∨ magUnits N < 2 ^ (23 + k) := by
  unfold magUnits
  split
  · next h => exact .inr (h.trans_le (Nat.pow_le_pow_right (by norm_num) (by omega)))
  · by_cases hk : k ≤ N / 2 ^ 23 - 1
    · exact .inl (dvd_mul_of_dvd_right (pow_dvd_pow 2 hk) _)
    · refine .inr ?_
      have small : 2 ^ 23 + N % 2 ^ 23 < 2 ^ 24 := by omega
      calc (2 ^ 23 + N % 2 ^ 23) * 2 ^ (N / 2 ^ 23 - 1)
          < 2 ^ 24 * 2 ^ (N / 2 ^ 23 - 1) := Nat.mul_lt_mul_of_pos_right small (by positivity)
        _ = 2 ^ (24 + (N / 2 ^ 23 - 1)) := (pow_add ..).symm
        _ ≤ 2 ^ (23 + k) := Nat.pow_le_pow_right (by norm_num) (by omega)

/-! ### The opposite -/

theorem mag_neg (a : F32) : F32.mag (F32.neg a) = F32.mag a := by
  have low (b : F32) : F32.mag b = (b.extractLsb' 0 31).toNat := by
    rw [BitVec.extractLsb'_toNat, Nat.shiftRight_zero, F32.mag]
  have signOnly : BitVec.extractLsb' 0 31 0x80000000#32 = 0#31 := by decide
  rw [low, low, F32.neg, BitVec.extractLsb'_xor, signOnly, BitVec.xor_zero]

theorem sign_neg (a : F32) : F32.sign (F32.neg a) = !F32.sign a := by
  have top : BitVec.getLsbD 0x80000000#32 31 = true := by decide
  rw [F32.sign, F32.neg, BitVec.getLsbD_xor, top, Bool.xor_true, F32.sign]

theorem neg_eq_pack (a : F32) : F32.neg a = F32.pack (!F32.sign a) (F32.mag a) := by
  rw [← pack_sign_mag (F32.neg a), sign_neg, mag_neg]

theorem isFinite_neg (a : F32) : F32.isFinite (F32.neg a) = F32.isFinite a := by
  rw [Bool.eq_iff_iff, isFinite_iff, isFinite_iff, mag_neg]

theorem signFactor_not (neg : Bool) : signFactor (!neg) = -signFactor neg := by
  cases neg <;> simp [signFactor]

theorem toReal_neg {a : F32} (h : F32.isFinite a = true) : F32.toReal (F32.neg a) = -F32.toReal a := by
  have hm := (isFinite_iff a).mp h
  rw [toReal_of_mag_lt hm, toReal_of_mag_lt (by rwa [mag_neg]), sign_neg, mag_neg, signFactor_not]
  ring

theorem neg_neg_pattern (a : F32) : F32.neg (F32.neg a) = a := by
  rw [neg_eq_pack, sign_neg, mag_neg, Bool.not_not, pack_sign_mag]

/-- Rounding to nearest even is symmetric. -/
theorem nearestEven_neg {x : ℝ} {a : F32} (h : F32.NearestEven x a) : F32.NearestEven (-x) (F32.neg a) := by
  obtain ⟨up, down, inside⟩ := h
  have infinity (s : Bool) : F32.neg (F32.pack s F32.infMag) = F32.pack (!s) F32.infMag := by
    rw [neg_eq_pack, sign_pack s (by norm_num), mag_pack s (by norm_num)]
  refine ⟨fun hx => ?_, fun hx => ?_, fun hx => ?_⟩
  · rw [down (by linarith), infinity]; rfl
  · rw [up (by linarith), infinity]; rfl
  · obtain ⟨hfin, near⟩ := inside (by rwa [abs_neg] at hx)
    refine ⟨by rwa [isFinite_neg], fun b hb => ?_⟩
    have dist (c : F32) (hc : F32.isFinite c = true) : |F32.toReal (F32.neg c) - -x| = |F32.toReal c - x| := by
      rw [toReal_neg hc, neg_sub_neg, abs_sub_comm]
    have hb' : F32.isFinite (F32.neg b) = true := by rwa [isFinite_neg]
    have opposite := dist (F32.neg b) hb'
    rw [neg_neg_pattern] at opposite
    obtain ⟨le, tie⟩ := near (F32.neg b) hb'
    rw [dist a hfin, opposite, fracField_eq, mag_neg, ← fracField_eq]
    refine ⟨le, fun he hne => tie he fun heq => hne ?_⟩
    rw [toReal_neg hfin, heq, toReal_neg hb, neg_neg]

end Sys2Proof.Machine
end

section
/-!
PROOFS, family `other`, rounding to nearest even (rule R111). A real is counted in units in its last place and the count
rounded; no finite number is nearer, because those that are no whole number of these units lie below the real's binade.
-/

namespace Sys2Proof.Machine

/-! ### Rounding to a whole number -/

theorem halfEven_spec {y : ℝ} (hy : 0 ≤ y) :
    |(halfEven y : ℝ) - y| ≤ 1 / 2 ∧ (|(halfEven y : ℝ) - y| = 1 / 2 → halfEven y % 2 = 0) := by
  have lo := Nat.floor_le hy
  have hi := Nat.lt_floor_add_one y
  unfold halfEven
  split_ifs with h
  · push_cast
    rw [abs_of_nonneg (by linarith)]
    obtain h | ⟨h, hodd⟩ := h
    · exact ⟨by linarith, fun he => by linarith⟩
    · exact ⟨by linarith, fun _ => by omega⟩
  · push Not at h
    obtain ⟨hle, hodd⟩ := h
    rw [abs_of_nonpos (by linarith)]
    exact ⟨by linarith, fun he => by have := hodd (by linarith); omega⟩

/-- No whole number is nearer, and another one as near leaves the even one. -/
theorem halfEven_nearest {y : ℝ} (hy : 0 ≤ y) (n : ℤ) :
    |(halfEven y : ℝ) - y| ≤ |(n : ℝ) - y| ∧
      (|(halfEven y : ℝ) - y| = |(n : ℝ) - y| → (n : ℝ) ≠ halfEven y → halfEven y % 2 = 0) := by
  obtain ⟨half, even⟩ := halfEven_spec hy
  by_cases hn : n = halfEven y
  · subst hn
    exact ⟨by simp, fun _ hne => absurd (by simp) hne⟩
  · have apart : (1 : ℝ) ≤ |(n : ℝ) - halfEven y| := by
      have : 1 ≤ |n - (halfEven y : ℤ)| := Int.one_le_abs (sub_ne_zero.mpr hn)
      exact_mod_cast this
    have triangle := abs_sub_le (n : ℝ) y (halfEven y)
    rw [abs_sub_comm y] at triangle
    exact ⟨by linarith, fun he _ => even (by linarith)⟩

theorem le_halfEven {y : ℝ} {n : Nat} (h : (n : ℝ) ≤ y) : n ≤ halfEven y := by
  obtain ⟨half, -⟩ := halfEven_spec ((Nat.cast_nonneg n).trans h)
  have : (n : ℝ) < halfEven y + 1 := by linarith [(abs_le.mp half).1]
  exact Nat.lt_succ_iff.mp (by exact_mod_cast this)

theorem halfEven_lt {y : ℝ} (hy : 0 ≤ y) {n : Nat} (h : y < n - 1 / 2) : halfEven y < n := by
  obtain ⟨half, -⟩ := halfEven_spec hy
  have : (halfEven y : ℝ) < n := by linarith [(abs_le.mp half).2]
  exact_mod_cast this

/-- From the midpoint below an even number on, the rounded number is at least that. -/
theorem le_halfEven_of_even {y : ℝ} {n : Nat} (hn : n % 2 = 0) (hy : 0 ≤ y) (h : (n : ℝ) - 1 / 2 ≤ y) :
    n ≤ halfEven y := by
  obtain ⟨half, even⟩ := halfEven_spec hy
  by_contra hlt
  have hlt : halfEven y + 1 ≤ n := by omega
  have cast : (halfEven y : ℝ) + 1 ≤ n := by exact_mod_cast hlt
  have lower := (abs_le.mp half).1
  have exact_half : |(halfEven y : ℝ) - y| = 1 / 2 := by
    rw [abs_of_nonpos (by linarith)]; linarith
  have equal : (halfEven y : ℝ) + 1 = n := by linarith
  have : halfEven y + 1 = n := by exact_mod_cast equal
  have := even exact_half
  omega

/-! ### The binade of a positive real -/

/-- The exponent of one unit in the last place of `x`. -/
noncomputable def ulpOf (x : ℝ) : ℤ := ulpExp (Int.log 2 x)

/-- `x` in units in its last place. -/
noncomputable def inUlps (x : ℝ) : ℝ := x / (2 : ℝ) ^ ulpOf x

/-- The same exponent, counted up from the smallest. -/
noncomputable def ulpIndex (x : ℝ) : Nat := (ulpOf x + 149).toNat

/-- The magnitude that `x` rounds to, if it does not overflow. -/
noncomputable def roundReal (x : ℝ) : Nat := ulpIndex x * 2 ^ 23 + halfEven (inUlps x)

theorem ulpOf_eq (x : ℝ) : ulpOf x = ulpIndex x - 149 := by
  have : (-149 : ℤ) ≤ ulpOf x := le_max_right _ _
  unfold ulpIndex
  omega

theorem inUlps_mul (x : ℝ) : inUlps x * (2 : ℝ) ^ ulpOf x = x := div_mul_cancel₀ _ (by positivity)

/-- A significand has at most 24 bits. -/
theorem inUlps_lt (x : ℝ) : inUlps x < 2 ^ 24 := by
  have upper : x < (2 : ℝ) ^ (Int.log 2 x + 1) := by exact_mod_cast Int.lt_zpow_succ_log_self (b := 2) (by norm_num) x
  have exponent : Int.log 2 x + 1 ≤ 24 + ulpOf x := by
    have : Int.log 2 x - 23 ≤ ulpOf x := le_max_left _ _
    omega
  rw [inUlps, div_lt_iff₀ (by positivity)]
  calc x < (2 : ℝ) ^ (Int.log 2 x + 1) := upper
    _ ≤ 2 ^ (24 + ulpOf x) := zpow_le_zpow_right₀ (by norm_num) exponent
    _ = 2 ^ 24 * 2 ^ ulpOf x := by rw [zpow_add₀ two_ne_zero]; norm_cast

/-- `2^k` units of `2^-149` are one unit in the last place. -/
theorem two_pow_index_mul (x : ℝ) : (2 : ℝ) ^ ulpIndex x * (2 : ℝ) ^ (-149 : ℤ) = (2 : ℝ) ^ ulpOf x := by
  rw [← zpow_natCast, ← zpow_add₀ two_ne_zero, ulpOf_eq]
  rfl

/-- A distance from `x`, in its units in the last place. -/
theorem abs_mul_ulp_sub (x v : ℝ) : |v * (2 : ℝ) ^ ulpOf x - x| = |v - inUlps x| * (2 : ℝ) ^ ulpOf x := by
  have split : v * (2 : ℝ) ^ ulpOf x - x = (v - inUlps x) * (2 : ℝ) ^ ulpOf x := by rw [sub_mul, inUlps_mul]
  rw [split, abs_mul, abs_of_pos (show (0 : ℝ) < 2 ^ ulpOf x by positivity)]

theorem fracField_roundReal {x : ℝ} (h : roundReal x < F32.infMag) :
    F32.fracField (F32.pack false (roundReal x)) % 2 = halfEven (inUlps x) % 2 := by
  rw [fracField_eq, mag_pack false (h.trans (by norm_num)), roundReal]
  omega

section
variable {x : ℝ} (hx : 0 < x)
include hx

theorem inUlps_pos : 0 < inUlps x := div_pos hx (by positivity)

/-- Above the subnormal numbers a significand has 24 bits. -/
theorem le_inUlps (h : ulpIndex x ≠ 0) : 2 ^ 23 ≤ inUlps x := by
  have lower : (2 : ℝ) ^ Int.log 2 x ≤ x := by exact_mod_cast Int.zpow_log_le_self (b := 2) (by norm_num) hx
  have exponent : Int.log 2 x = 23 + ulpOf x := by
    have index := ulpOf_eq x
    have : ulpOf x = max (Int.log 2 x - 23) (-149) := rfl
    omega
  rw [inUlps, le_div_iff₀ (by positivity)]
  refine le_trans (le_of_eq ?_) lower
  rw [exponent, zpow_add₀ two_ne_zero]
  norm_cast

theorem halfEven_inUlps_le : halfEven (inUlps x) ≤ 2 ^ 24 := by
  refine Nat.lt_succ_iff.mp (halfEven_lt (inUlps_pos hx).le ?_)
  have := inUlps_lt x
  push_cast
  linarith

theorem index_zero_or_le_halfEven : ulpIndex x = 0 ∨ 2 ^ 23 ≤ halfEven (inUlps x) := by
  by_cases h : ulpIndex x = 0
  · exact .inl h
  · exact .inr (le_halfEven (by exact_mod_cast le_inUlps hx h))

theorem magUnits_roundReal : magUnits (roundReal x) = halfEven (inUlps x) * 2 ^ ulpIndex x :=
  magUnits_ulp (halfEven_inUlps_le hx) (index_zero_or_le_halfEven hx)

/-! ### Nearest -/

theorem toReal_roundReal (h : roundReal x < F32.infMag) :
    F32.toReal (F32.pack false (roundReal x)) = halfEven (inUlps x) * (2 : ℝ) ^ ulpOf x := by
  rw [toReal_pack false h, magUnits_roundReal hx, ← two_pow_index_mul x]
  simp only [signFactor]
  push_cast
  simp [mul_assoc]

/-- A finite number is a whole number of `x`'s units in the last place, or it lies below `x`'s binade. -/
theorem exists_int_or_below {b : F32} (hb : F32.isFinite b = true) :
    (∃ n : ℤ, F32.toReal b = n * (2 : ℝ) ^ ulpOf x) ∨
      (2 ^ 23 ≤ inUlps x ∧ F32.toReal b < 2 ^ 23 * (2 : ℝ) ^ ulpOf x) := by
  rw [toReal_of_mag_lt ((isFinite_iff b).mp hb), ← two_pow_index_mul x]
  obtain ⟨n, hn⟩ | hlt := two_pow_dvd_magUnits_or_lt (ulpIndex x) (F32.mag b)
  · left
    rw [hn]
    refine ⟨(if F32.sign b then -1 else 1) * n, ?_⟩
    unfold signFactor
    push_cast
    split <;> simp <;> ring
  · by_cases hk : ulpIndex x = 0
    · left
      rw [hk]
      refine ⟨(if F32.sign b then -1 else 1) * magUnits (F32.mag b), ?_⟩
      unfold signFactor
      push_cast
      split <;> simp
    · right
      refine ⟨le_inUlps hx hk, ?_⟩
      have below : (magUnits (F32.mag b) : ℝ) < 2 ^ 23 * 2 ^ ulpIndex x := by
        rw [← pow_add]; exact_mod_cast hlt
      have signed : signFactor (F32.sign b) * (magUnits (F32.mag b) : ℝ) ≤ magUnits (F32.mag b) := by
        have : (0 : ℝ) ≤ magUnits (F32.mag b) := Nat.cast_nonneg _
        unfold signFactor
        split <;> linarith
      rw [← mul_assoc]
      exact mul_lt_mul_of_pos_right (signed.trans_lt below) (by positivity)

/-- No finite number is nearer to `x` than the one it is rounded to. -/
theorem roundReal_nearest (h : roundReal x < F32.infMag) {b : F32} (hb : F32.isFinite b = true) :
    |F32.toReal (F32.pack false (roundReal x)) - x| ≤ |F32.toReal b - x| ∧
      (|F32.toReal (F32.pack false (roundReal x)) - x| = |F32.toReal b - x| →
        F32.toReal (F32.pack false (roundReal x)) ≠ F32.toReal b →
        F32.fracField (F32.pack false (roundReal x)) % 2 = 0) := by
  have unit_pos : (0 : ℝ) < 2 ^ ulpOf x := by positivity
  rw [fracField_roundReal h, toReal_roundReal hx h, abs_mul_ulp_sub]
  obtain ⟨n, hn⟩ | ⟨binade, below⟩ := exists_int_or_below hx hb
  · obtain ⟨le, tie⟩ := halfEven_nearest (inUlps_pos hx).le n
    rw [hn, abs_mul_ulp_sub]
    refine ⟨by gcongr, fun he hne => tie (mul_right_cancel₀ unit_pos.ne' he) fun heq => hne ?_⟩
    rw [heq]
  · obtain ⟨le, -⟩ := halfEven_nearest (inUlps_pos hx).le (2 ^ 23)
    have strict : |(halfEven (inUlps x) : ℝ) - inUlps x| * (2 : ℝ) ^ ulpOf x < |F32.toReal b - x| := by
      rw [Int.cast_pow, Int.cast_ofNat, abs_of_nonpos (sub_nonpos.mpr binade)] at le
      have := mul_le_mul_of_nonneg_right le unit_pos.le
      have := neg_abs_le (F32.toReal b - x)
      have := inUlps_mul x
      linarith
    exact ⟨strict.le, fun he => absurd he strict.ne⟩

/-! ### Overflow -/

/-- Below the midpoint between the largest finite number and `2^128` nothing overflows. -/
theorem roundReal_lt (h : x < 2 ^ 128 - 2 ^ 103) : roundReal x < F32.infMag := by
  have hlog : Int.log 2 x < 128 :=
    (Int.lt_zpow_iff_log_lt (by norm_num) hx).mp (h.trans (by norm_num))
  have hulp : ulpOf x = max (Int.log 2 x - 23) (-149) := rfl
  have hindex := ulpOf_eq x
  have hm := halfEven_inUlps_le hx
  unfold roundReal F32.infMag
  by_cases hk : ulpIndex x = 253
  · have h104 : ulpOf x = 104 := by omega
    have : halfEven (inUlps x) < 2 ^ 24 := by
      refine halfEven_lt (inUlps_pos hx).le ?_
      rw [inUlps, h104, div_lt_iff₀ (by positivity)]
      refine h.trans_eq ?_
      norm_num
    omega
  · omega

/-- From that midpoint on everything does. -/
theorem infMag_le_roundReal (h : 2 ^ 128 - 2 ^ 103 ≤ x) : F32.infMag ≤ roundReal x := by
  have hlog : 127 ≤ Int.log 2 x :=
    (Int.zpow_le_iff_le_log (by norm_num) hx).mp (le_trans (by norm_num) h)
  have hulp : ulpOf x = max (Int.log 2 x - 23) (-149) := rfl
  have hindex := ulpOf_eq x
  have hm := index_zero_or_le_halfEven hx
  unfold roundReal F32.infMag
  by_cases hk : ulpIndex x = 253
  · have h104 : ulpOf x = 104 := by omega
    have : 2 ^ 24 ≤ halfEven (inUlps x) := by
      refine le_halfEven_of_even (by norm_num) (inUlps_pos hx).le ?_
      rw [inUlps, h104, le_div_iff₀ (by positivity)]
      refine le_trans (le_of_eq ?_) h
      norm_num
    omega
  · omega

/-- A positive real rounds to the magnitude of its count, and to infinity where that is too large. -/
theorem nearestEven_roundReal : F32.NearestEven x (F32.pack false (min (roundReal x) F32.infMag)) := by
  refine ⟨fun h => by rw [min_eq_right (infMag_le_roundReal hx h)], fun h => ?_, fun h => ?_⟩
  · have : (0 : ℝ) < 2 ^ 128 - 2 ^ 103 := by norm_num
    linarith
  · have hlt := roundReal_lt hx ((le_abs_self x).trans_lt h)
    rw [min_eq_left hlt.le]
    exact ⟨isFinite_pack false hlt, fun b hb => roundReal_nearest hx hlt hb⟩

end

/-! ### Any real -/

/-- A zero of either sign is zero rounded. -/
theorem nearestEven_zero (neg : Bool) : F32.NearestEven 0 (F32.pack neg 0) := by
  have big : (0 : ℝ) < 2 ^ 128 - 2 ^ 103 := by norm_num
  have value : F32.toReal (F32.pack neg 0) = 0 := by
    rw [toReal_pack neg (by norm_num)]
    simp [magUnits]
  have frac : F32.fracField (F32.pack neg 0) = 0 := by
    rw [fracField_eq, mag_pack neg (by norm_num), Nat.zero_mod]
  refine ⟨fun h => by linarith, fun h => by linarith, fun _ => ⟨isFinite_pack neg (by norm_num), fun b _ => ?_⟩⟩
  rw [value, frac]
  exact ⟨by simp, fun _ _ => rfl⟩

/-- The sign in front, the magnitude rounded. -/
theorem nearestEven_signed (neg : Bool) {x : ℝ} (hx : 0 < x) :
    F32.NearestEven (signFactor neg * x) (F32.pack neg (min (roundReal x) F32.infMag)) := by
  have positive := nearestEven_roundReal hx
  cases neg with
  | false => simpa [signFactor] using positive
  | true =>
    have h31 : min (roundReal x) F32.infMag < 2 ^ 31 := (min_le_right _ _).trans_lt (by norm_num)
    have negative := nearestEven_neg positive
    rw [neg_eq_pack, sign_pack false h31, mag_pack false h31] at negative
    simpa [signFactor] using negative

/-- `fconst` of any real under `binary32` (rule R111). -/
theorem nearestEven_ofReal (r : ℝ) : F32.NearestEven r (F32.ofReal r) := by
  by_cases h0 : r = 0
  · subst h0
    rw [F32.ofReal, if_pos rfl]
    exact nearestEven_zero false
  · have rounded : F32.ofReal r = F32.pack (decide (r < 0)) (min (roundReal |r|) F32.infMag) := if_neg h0
    have signed := nearestEven_signed (decide (r < 0)) (abs_pos.mpr h0)
    rwa [signFactor_mul_abs, ← rounded] at signed

end Sys2Proof.Machine
end

section
/-!
PROOFS, family `other`, the operations of `NUM = binary32` (rule R111). The integer rounding of the model is the rounding
of the real it stands for, so each operation rounds its exact result once; a root that is not exact lies strictly
between two neighbouring half units in the last place, as the midpoint that stands in for it does.
-/

namespace Sys2Proof.Machine

/-! ### The model's rounding is the rounding of a real -/

theorem two_zpow_eq (z : ℤ) : (2 : ℝ) ^ z = 2 ^ z.toNat / 2 ^ (-z).toNat := by
  obtain h | h := le_total 0 z
  · lift z to ℕ using h
    simp
  · obtain ⟨n, rfl⟩ : ∃ n : ℕ, z = -n := ⟨(-z).toNat, by omega⟩
    simp

/-- A real in the binade of `2^k` has the logarithm `k`. -/
theorem log_eq_of_mem_binade {x : ℝ} {k : ℤ} (lo : (2 : ℝ) ^ k ≤ x) (hi : x < (2 : ℝ) ^ (k + 1)) :
    Int.log 2 x = k := by
  have hx : 0 < x := lt_of_lt_of_le (by positivity) lo
  have h1 := (Int.zpow_le_iff_le_log (b := 2) (by norm_num) hx).mp (by exact_mod_cast lo)
  have h2 := (Int.lt_zpow_iff_log_lt (b := 2) (by norm_num) hx).mp (by exact_mod_cast hi)
  omega

theorem binade_log {x : ℝ} (hx : 0 < x) : (2 : ℝ) ^ Int.log 2 x ≤ x ∧ x < (2 : ℝ) ^ (Int.log 2 x + 1) :=
  ⟨by exact_mod_cast Int.zpow_log_le_self (b := 2) (by norm_num) hx,
    by exact_mod_cast Int.lt_zpow_succ_log_self (b := 2) (by norm_num) x⟩

theorem log_mul_two_zpow {x : ℝ} (hx : 0 < x) (e : ℤ) : Int.log 2 (x * (2 : ℝ) ^ e) = Int.log 2 x + e := by
  obtain ⟨lo, hi⟩ := binade_log hx
  refine log_eq_of_mem_binade ?_ ?_
  · rw [zpow_add₀ two_ne_zero]
    gcongr
  · rw [add_right_comm, zpow_add₀ two_ne_zero _ e]
    gcongr

theorem binade_log2 {n : Nat} (hn : 0 < n) : (2 : ℝ) ^ (Nat.log2 n : ℤ) ≤ n ∧ (n : ℝ) < 2 ^ ((Nat.log2 n : ℤ) + 1) := by
  constructor
  · exact_mod_cast Nat.log2_self_le hn.ne'
  · exact_mod_cast Nat.lt_log2_self

theorem floorLog2_eq {n d : Nat} (hn : 0 < n) (hd : 0 < d) : floorLog2 n d = Int.log 2 ((n : ℝ) / d) := by
  have hd' : (0 : ℝ) < d := by exact_mod_cast hd
  obtain ⟨nlo, nhi⟩ := binade_log2 hn
  obtain ⟨dlo, dhi⟩ := binade_log2 hd
  set k : ℤ := (Nat.log2 n : ℤ) - Nat.log2 d with hk
  have above : (2 : ℝ) ^ (k - 1) ≤ n / d := by
    rw [le_div_iff₀ hd']
    calc (2 : ℝ) ^ (k - 1) * d ≤ 2 ^ (k - 1) * 2 ^ ((Nat.log2 d : ℤ) + 1) := by gcongr
      _ = 2 ^ (Nat.log2 n : ℤ) := by rw [← zpow_add₀ two_ne_zero]; congr 1; omega
      _ ≤ n := nlo
  have below : (n : ℝ) / d < 2 ^ (k + 1) := by
    rw [div_lt_iff₀ hd']
    calc (n : ℝ) < 2 ^ ((Nat.log2 n : ℤ) + 1) := nhi
      _ = 2 ^ (k + 1) * 2 ^ (Nat.log2 d : ℤ) := by rw [← zpow_add₀ two_ne_zero]; congr 1; omega
      _ ≤ 2 ^ (k + 1) * d := by gcongr
  have test : n * 2 ^ (-k).toNat < d * 2 ^ k.toNat ↔ (n : ℝ) / d < 2 ^ k := by
    rw [two_zpow_eq, div_lt_div_iff₀ hd' (by positivity), mul_comm (2 ^ k.toNat : ℝ)]
    exact_mod_cast Iff.rfl
  have unfolded : floorLog2 n d = if n * 2 ^ (-k).toNat < d * 2 ^ k.toNat then k - 1 else k := rfl
  rw [unfolded]
  by_cases h : n * 2 ^ (-k).toNat < d * 2 ^ k.toNat
  · rw [if_pos h, log_eq_of_mem_binade above (by rw [sub_add_cancel]; exact test.mp h)]
  · rw [if_neg h, log_eq_of_mem_binade (not_lt.mp fun hlt => h (test.mpr hlt)) below]

theorem divNearestEven_eq (n : Nat) {d : Nat} (hd : 0 < d) : divNearestEven n d = halfEven ((n : ℝ) / d) := by
  have hd' : (0 : ℝ) < d := by exact_mod_cast hd
  have frac : (n : ℝ) / d - (n / d : Nat) = (n % d : Nat) / d := by
    rw [eq_div_iff hd'.ne', sub_mul, div_mul_cancel₀ _ hd'.ne', sub_eq_iff_eq_add]
    exact_mod_cast (Nat.mod_add_div' n d).symm
  have more : 1 / 2 < ((n % d : Nat) : ℝ) / d ↔ d < 2 * (n % d) := by
    rw [lt_div_iff₀ hd', one_div_mul_eq_div, div_lt_iff₀ two_pos, mul_comm]
    exact_mod_cast Iff.rfl
  have tie : ((n % d : Nat) : ℝ) / d = 1 / 2 ↔ 2 * (n % d) = d := by
    rw [div_eq_div_iff hd'.ne' two_ne_zero, one_mul, mul_comm]
    exact_mod_cast Iff.rfl
  rw [halfEven, Nat.floor_div_eq_div, frac, divNearestEven]
  simp only [more, tie]

/-- The model's rounding of `(n / d) · 2^e` is the rounding of that real. -/
theorem roundMag_eq {n d : Nat} (hn : 0 < n) (hd : 0 < d) (e : ℤ) :
    roundMag n d e = min (roundReal ((n : ℝ) / d * 2 ^ e)) F32.infMag := by
  have hx : (0 : ℝ) < n / d := by positivity
  have hulp : ulpExp (floorLog2 n d + e) = ulpOf ((n : ℝ) / d * 2 ^ e) := by
    rw [floorLog2_eq hn hd, ← log_mul_two_zpow hx, ulpOf]
  have hcount (q : ℤ) : divNearestEven (n * 2 ^ (e - q).toNat) (d * 2 ^ (q - e).toNat) =
      halfEven ((n : ℝ) / d * 2 ^ e / 2 ^ q) := by
    rw [divNearestEven_eq _ (by positivity), mul_div_assoc, ← zpow_sub₀ two_ne_zero, two_zpow_eq, neg_sub]
    push_cast
    rw [mul_div_mul_comm]
  rw [roundMag, if_neg hn.ne', hulp]
  dsimp only
  rw [hcount]
  rfl

/-- Any signed multiple of a power of two, rounded once. -/
theorem nearestEven_roundMag (neg : Bool) (n : Nat) {d : Nat} (hd : 0 < d) (e : ℤ) :
    F32.NearestEven (signFactor neg * ((n : ℝ) / d * 2 ^ e)) (F32.pack neg (roundMag n d e)) := by
  obtain rfl | hn := Nat.eq_zero_or_pos n
  · have zero : roundMag 0 d e = 0 := if_pos rfl
    rw [zero]
    simpa using nearestEven_zero neg
  · rw [roundMag_eq hn hd]
    exact nearestEven_signed neg (by positivity)

/-- Any integer multiple of a power of two, rounded once. -/
theorem nearestEven_roundMag_int (n : ℤ) (e : ℤ) :
    F32.NearestEven (n * (2 : ℝ) ^ e) (F32.pack (decide (n < 0)) (roundMag n.natAbs 1 e)) := by
  have rounded := nearestEven_roundMag (decide (n < 0)) n.natAbs one_pos e
  have value : signFactor (decide (n < 0)) * ((n.natAbs : ℝ) / (1 : ℕ) * 2 ^ e) = n * (2 : ℝ) ^ e := by
    rw [Nat.cast_one, div_one, ← mul_assoc, signFactor_mul_natAbs]
  rwa [value] at rounded

/-! ### Sums, products and quotients -/

/-- A finite pattern's sign, significand and exponent. -/
theorem exists_kind_eq_fin {a : F32} (h : F32.isFinite a = true) :
    ∃ s m e, F32.kind a = .fin s m e ∧ m < 2 ^ 24 ∧ F32.toReal a = signFactor s * m * (2 : ℝ) ^ e := by
  have hk := kind_of_mag_lt ((isFinite_iff a).mp h)
  by_cases hs : F32.mag a < 2 ^ 23
  · rw [if_pos hs] at hk
    exact ⟨_, _, _, hk, by omega, by rw [F32.toReal, hk]; rfl⟩
  · rw [if_neg hs] at hk
    exact ⟨_, _, _, hk, by omega, by rw [F32.toReal, hk]; rfl⟩

theorem signFactor_mul (s t : Bool) : signFactor s * signFactor t = signFactor (s != t) := by
  cases s <;> cases t <;> simp [signFactor]

theorem signFactor_mul_self (s : Bool) : signFactor s * signFactor s = 1 := by
  cases s <;> simp [signFactor]

/-- A significand scaled down to a smaller exponent. -/
theorem scaledInt_mul (s : Bool) (m : Nat) {g e : ℤ} (h : g ≤ e) :
    (scaledInt s m g e : ℝ) * 2 ^ g = signFactor s * m * (2 : ℝ) ^ e := by
  obtain ⟨k, rfl⟩ : ∃ k : ℕ, e = g + k := ⟨(e - g).toNat, by omega⟩
  rw [scaledInt, add_sub_cancel_left, Int.toNat_natCast, zpow_add₀ two_ne_zero, zpow_natCast, signFactor]
  push_cast
  split <;> simp <;> ring

theorem nearestEven_add {a b : F32} (ha : F32.isFinite a = true) (hb : F32.isFinite b = true) :
    F32.NearestEven (F32.toReal a + F32.toReal b) (F32.add a b) := by
  obtain ⟨s, m, e, hka, -, hva⟩ := exists_kind_eq_fin ha
  obtain ⟨t, n, f, hkb, -, hvb⟩ := exists_kind_eq_fin hb
  have sum : F32.toReal a + F32.toReal b =
      ((scaledInt s m (min e f) e + scaledInt t n (min e f) f : ℤ) : ℝ) * 2 ^ min e f := by
    rw [hva, hvb, ← scaledInt_mul s m (min_le_left e f), ← scaledInt_mul t n (min_le_right e f)]
    push_cast
    ring
  simp only [F32.add, hka, hkb]
  rw [sum]
  by_cases h0 : scaledInt s m (min e f) e + scaledInt t n (min e f) f = 0
  · rw [if_pos h0, h0, Int.cast_zero, zero_mul]
    exact nearestEven_zero _
  · rw [if_neg h0]
    exact nearestEven_roundMag_int _ _

theorem nearestEven_sub {a b : F32} (ha : F32.isFinite a = true) (hb : F32.isFinite b = true) :
    F32.NearestEven (F32.toReal a - F32.toReal b) (F32.sub a b) := by
  rw [sub_eq_add_neg, ← toReal_neg hb]
  exact nearestEven_add ha (by rwa [isFinite_neg])

theorem nearestEven_mul {a b : F32} (ha : F32.isFinite a = true) (hb : F32.isFinite b = true) :
    F32.NearestEven (F32.toReal a * F32.toReal b) (F32.mul a b) := by
  obtain ⟨s, m, e, hka, -, hva⟩ := exists_kind_eq_fin ha
  obtain ⟨t, n, f, hkb, -, hvb⟩ := exists_kind_eq_fin hb
  have product : F32.toReal a * F32.toReal b = signFactor (s != t) * (((m * n : ℕ) : ℝ) / (1 : ℕ) * 2 ^ (e + f)) := by
    rw [hva, hvb, ← signFactor_mul, zpow_add₀ two_ne_zero]
    push_cast
    ring
  simp only [F32.mul, hka, hkb]
  rw [product]
  exact nearestEven_roundMag _ _ one_pos _

theorem nearestEven_div {a b : F32} (ha : F32.isFinite a = true) (hb : F32.isFinite b = true)
    (h : F32.toReal b ≠ 0) : F32.NearestEven (F32.toReal a / F32.toReal b) (F32.div a b) := by
  obtain ⟨s, m, e, hka, -, hva⟩ := exists_kind_eq_fin ha
  obtain ⟨t, n, f, hkb, -, hvb⟩ := exists_kind_eq_fin hb
  have hn : n ≠ 0 := by
    rintro rfl
    exact h (by simp [hvb])
  have ht : signFactor t ≠ 0 := fun h0 => by simpa [h0] using signFactor_mul_self t
  have quotient : F32.toReal a / F32.toReal b = signFactor (s != t) * ((m : ℝ) / n * 2 ^ (e - f)) := by
    have hn' : (n : ℝ) ≠ 0 := by exact_mod_cast hn
    rw [hva, hvb, ← signFactor_mul, zpow_sub₀ two_ne_zero]
    field_simp
    rw [pow_two, signFactor_mul_self, mul_one]
  simp only [F32.div, hka, hkb, if_neg hn]
  rw [quotient]
  exact nearestEven_roundMag _ _ (Nat.pos_of_ne_zero hn) _

/-- Settles O49: each result is rounded once. -/
theorem sumsAndProductsAreCorrectlyRounded : Obligations.SumsAndProductsAreCorrectlyRounded :=
  fun _ _ ha hb => ⟨nearestEven_add ha hb, nearestEven_sub ha hb, nearestEven_mul ha hb⟩

/-! ### The square root -/

/-- The search from the top bit down ends at the integer root. -/
theorem isqrtBits_spec {k m r : Nat} (lo : r * r ≤ m) (hi : m < (r + 2 ^ k) * (r + 2 ^ k)) :
    isqrtBits k m r * isqrtBits k m r ≤ m ∧ m < (isqrtBits k m r + 1) * (isqrtBits k m r + 1) := by
  induction k generalizing r with
  | zero => exact ⟨lo, hi⟩
  | succ k ih =>
    rw [isqrtBits]
    split
    · next h => exact ih h (by rwa [add_assoc, ← two_mul, ← pow_succ'])
    · next h => exact ih lo (not_le.mp h)

theorem isqrt_eq_sqrt {m : Nat} (h : m < 2 ^ 88) : isqrt m = Nat.sqrt m := by
  obtain ⟨lo, hi⟩ := isqrtBits_spec (k := 44) (m := m) (r := 0) (Nat.zero_le _) (by simpa using h)
  exact (Nat.eq_sqrt.mpr ⟨lo, hi⟩)

/-- Strictly between two neighbouring halves the rounding is one number. -/
theorem halfEven_of_between {y : ℝ} {h : Nat} (lo : (h : ℝ) < 2 * y) (hi : 2 * y < h + 1) :
    halfEven y = (h + 1) / 2 := by
  have hy : 0 ≤ y := by linarith [Nat.cast_nonneg (α := ℝ) h]
  obtain ⟨half, -⟩ := halfEven_spec hy
  obtain ⟨h1, h2⟩ := abs_le.mp half
  have upper : 2 * halfEven y < h + 2 := by exact_mod_cast (by linarith : (2 : ℝ) * halfEven y < h + 2)
  have lower : h < 2 * halfEven y + 1 := by exact_mod_cast (by linarith : (h : ℝ) < 2 * halfEven y + 1)
  omega

/-- Between `r · 2^g` and the next multiple of `2^g` every real rounds alike, where `r` has more bits than a
significand and one half unit. -/
theorem roundReal_of_between {r : Nat} {g : ℤ} (hr : 2 ^ 25 ≤ r) {z : ℝ} (lo : (r : ℝ) < z) (hi : z < r + 1) :
    roundReal (z * 2 ^ g) =
      (max (Nat.log2 r + g - 23) (-149) + 149).toNat * 2 ^ 23 +
        (r / 2 ^ (max (Nat.log2 r + g - 23) (-149) - g - 1).toNat + 1) / 2 := by
  have hr0 : 0 < r := by omega
  obtain ⟨rlo, -⟩ := binade_log2 hr0
  have rhi : (r : ℝ) + 1 ≤ 2 ^ ((Nat.log2 r : ℤ) + 1) := by
    have : r + 1 ≤ 2 ^ (Nat.log2 r + 1) := Nat.lt_log2_self
    exact_mod_cast this
  have hz : 0 < z := (Nat.cast_nonneg r).trans_lt lo
  have hlog : Int.log 2 (z * (2 : ℝ) ^ g) = Nat.log2 r + g := by
    rw [log_mul_two_zpow hz, log_eq_of_mem_binade (rlo.trans lo.le) (hi.trans_le rhi)]
  have hulp : ulpOf (z * (2 : ℝ) ^ g) = max (Nat.log2 r + g - 23) (-149) := by rw [ulpOf, hlog, ulpExp]
  have bits : 25 ≤ Nat.log2 r := (Nat.le_log2 hr0.ne').mpr hr
  set q : ℤ := max (Nat.log2 r + g - 23) (-149)
  obtain ⟨p, hp⟩ : ∃ p : ℕ, q = g + 1 + p := ⟨(q - g - 1).toNat, by omega⟩
  have count : 2 * inUlps (z * (2 : ℝ) ^ g) = z / 2 ^ p := by
    rw [inUlps, hulp, hp, zpow_add₀ two_ne_zero, zpow_add₀ two_ne_zero, zpow_natCast, zpow_one]
    have : (2 : ℝ) ^ g ≠ 0 := by positivity
    field_simp
  have hpow : (0 : ℝ) < 2 ^ p := by positivity
  have below : ((r / 2 ^ p : ℕ) : ℝ) < z / 2 ^ p := by
    rw [lt_div_iff₀ hpow]
    exact lt_of_le_of_lt (by exact_mod_cast Nat.div_mul_le_self r (2 ^ p)) lo
  have above : z / 2 ^ p < ((r / 2 ^ p : ℕ) : ℝ) + 1 := by
    rw [div_lt_iff₀ hpow]
    have : r + 1 ≤ (r / 2 ^ p + 1) * 2 ^ p := by
      rw [Nat.add_mul, one_mul]
      exact Nat.lt_div_mul_add (by positivity)
    exact hi.trans_le (by exact_mod_cast this)
  rw [roundReal, ulpIndex, hulp, halfEven_of_between (count ▸ below) (count ▸ above),
    show (q - g - 1).toNat = p by omega]

/-- The root of `m · 2^e`, rounded once. -/
theorem sqrtMag_eq {m : Nat} {e : ℤ} (hm : 0 < m) (h24 : m < 2 ^ 24) :
    sqrtMag m e = min (roundReal (√((m : ℝ) * 2 ^ e))) F32.infMag := by
  obtain ⟨t, ht, hlo, hhi, heven⟩ : ∃ t : ℕ, (if e % 2 = 0 then 60 else 61) = t ∧ 60 ≤ t ∧ t ≤ 61 ∧ (e - t) % 2 = 0 := by
    split
    · exact ⟨60, rfl, by omega, by omega, by omega⟩
    · exact ⟨61, rfl, by omega, by omega, by omega⟩
  obtain ⟨g, hg⟩ : ∃ g : ℤ, e = t + 2 * g := ⟨(e - t) / 2, by omega⟩
  have hn : m * 2 ^ t < 2 ^ 88 := by
    calc m * 2 ^ t < 2 ^ 24 * 2 ^ t := Nat.mul_lt_mul_of_pos_right h24 (by positivity)
      _ ≤ 2 ^ 24 * 2 ^ 61 := by gcongr; norm_num
      _ ≤ 2 ^ 88 := by norm_num
  have root : √((m : ℝ) * 2 ^ e) = √((m * 2 ^ t : ℕ) : ℝ) * 2 ^ g := by
    have scaled : (m : ℝ) * 2 ^ e = ((m * 2 ^ t : ℕ) : ℝ) * (2 ^ g) ^ 2 := by
      rw [hg, zpow_add₀ two_ne_zero, zpow_natCast, mul_comm 2 g, zpow_mul]
      push_cast
      rw [zpow_ofNat]
      ring
    rw [scaled, Real.sqrt_mul (Nat.cast_nonneg _), Real.sqrt_sq (by positivity)]
  have unfolded : sqrtMag m e = if isqrt (m * 2 ^ t) * isqrt (m * 2 ^ t) = m * 2 ^ t
      then roundMag (isqrt (m * 2 ^ t)) 1 g else roundMag (2 * isqrt (m * 2 ^ t) + 1) 1 (g - 1) := by
    rw [sqrtMag]
    simp only [ht]
    rw [show (e - t) / 2 = g by omega]
  rw [unfolded, isqrt_eq_sqrt hn, root]
  set r := Nat.sqrt (m * 2 ^ t) with hr
  have big : 2 ^ 25 ≤ r := by
    rw [hr, Nat.le_sqrt]
    calc 2 ^ 25 * 2 ^ 25 ≤ 1 * 2 ^ 60 := by norm_num
      _ ≤ m * 2 ^ t := Nat.mul_le_mul hm (Nat.pow_le_pow_right (by norm_num) hlo)
  split
  · next exact_root =>
    rw [roundMag_eq (by omega) one_pos, ← exact_root]
    push_cast
    rw [Real.sqrt_mul_self (Nat.cast_nonneg _), div_one]
  · next inexact =>
    have lo : (r : ℝ) < √((m * 2 ^ t : ℕ) : ℝ) := by
      rw [Real.lt_sqrt (Nat.cast_nonneg _), pow_two]
      exact_mod_cast lt_of_le_of_ne (Nat.sqrt_le _) inexact
    have hi : √((m * 2 ^ t : ℕ) : ℝ) < r + 1 := by
      rw [Real.sqrt_lt' (by positivity), pow_two]
      exact_mod_cast Nat.lt_succ_sqrt _
    have midpoint : ((2 * r + 1 : ℕ) : ℝ) / (1 : ℕ) * 2 ^ (g - 1) = ((r : ℝ) + 1 / 2) * 2 ^ g := by
      rw [zpow_sub₀ two_ne_zero, zpow_one]
      push_cast
      ring
    rw [roundMag_eq (by omega) one_pos, midpoint, roundReal_of_between big lo hi,
      roundReal_of_between big (by linarith) (by linarith)]

theorem nearestEven_of_toReal_eq_zero {a : F32} (ha : F32.isFinite a = true) (h : F32.toReal a = 0) :
    F32.NearestEven 0 a := by
  have big : (0 : ℝ) < 2 ^ 128 - 2 ^ 103 := by norm_num
  refine ⟨fun h => by linarith, fun h => by linarith, fun _ => ⟨ha, fun b _ => ?_⟩⟩
  rw [h]
  refine ⟨by simp, fun he hne => absurd ?_ hne⟩
  have : |F32.toReal b| = 0 := by simpa using he.symm
  exact (abs_eq_zero.mp this).symm

theorem nearestEven_sqrt {a : F32} (ha : F32.isFinite a = true) (h : 0 ≤ F32.toReal a) :
    F32.NearestEven √(F32.toReal a) (F32.sqrt a) := by
  obtain ⟨s, m, e, hk, h24, hv⟩ := exists_kind_eq_fin ha
  simp only [F32.sqrt, hk]
  by_cases hm : m = 0
  · have zero : F32.toReal a = 0 := by simp [hv, hm]
    rw [if_pos hm, zero, Real.sqrt_zero]
    exact nearestEven_of_toReal_eq_zero ha zero
  · have hm0 : 0 < m := Nat.pos_of_ne_zero hm
    have positive : s = false := by
      cases s with
      | false => rfl
      | true =>
        have : (0 : ℝ) < m * 2 ^ e := by positivity
        simp only [hv, signFactor, if_true] at h
        linarith
    subst positive
    rw [if_neg hm, if_neg Bool.false_ne_true, sqrtMag_eq hm0 h24]
    have value : F32.toReal a = (m : ℝ) * 2 ^ e := by simp [hv, signFactor]
    rw [value]
    exact nearestEven_roundReal (Real.sqrt_pos.mpr (by positivity))

/-- Settles O50: the quotient is rounded once, and the root as if it were. -/
theorem quotientsAndRootsAreCorrectlyRounded : Obligations.QuotientsAndRootsAreCorrectlyRounded :=
  fun _ _ ha hb => ⟨nearestEven_div ha hb, nearestEven_sqrt ha⟩

end Sys2Proof.Machine
end

section
/-!
PROOFS, family `other`, consequences for `NUM = binary32`: exact integers and the sign test (rule R111), the constants
(rules R111, R132), the whole record (rule R110), and a decoder that stays finite (rule R120).
-/

namespace Sys2Proof.Machine

/-! ### The sign test -/

theorem signFactor_mul_neg_iff (s : Bool) {v : ℝ} (hv : 0 ≤ v) : signFactor s * v < 0 ↔ s = true ∧ v ≠ 0 := by
  cases s with
  | false => simpa [signFactor] using hv
  | true =>
    simp only [signFactor, if_true, true_and]
    rw [neg_one_mul, neg_lt_zero]
    exact hv.lt_iff_ne'

/-- `flt0` is the sign of `val`, for every pattern. -/
theorem ltZero_iff (a : F32) : F32.ltZero a = true ↔ F32.toReal a < 0 := by
  unfold F32.ltZero F32.toReal
  cases F32.kind a with
  | nan => simp
  | inf s =>
    change s = true ↔ signFactor s * (2 : ℝ) ^ 128 < 0
    rw [signFactor_mul_neg_iff s (by positivity)]
    simp
  | fin s m e =>
    change (s && decide (m ≠ 0)) = true ↔ signFactor s * m * (2 : ℝ) ^ e < 0
    rw [mul_assoc, signFactor_mul_neg_iff s (by positivity)]
    simp [zpow_ne_zero]

/-! ### Integers -/

/-- The whole numbers up to `2^24` are magnitudes. -/
theorem exists_magUnits_eq {N : Nat} (h0 : 0 < N) (h : N ≤ 2 ^ 24) :
    ∃ M, M < F32.infMag ∧ magUnits M = N * 2 ^ 149 := by
  obtain hlt | rfl := h.lt_or_eq
  · have hL : Nat.log2 N < 24 := (Nat.log2_lt h0.ne').mpr hlt
    obtain ⟨c, hc⟩ : ∃ c, Nat.log2 N + c = 23 := ⟨23 - Nat.log2 N, by omega⟩
    have lo : 2 ^ 23 ≤ N * 2 ^ c := by
      rw [← hc, pow_add]
      exact Nat.mul_le_mul_right _ (Nat.log2_self_le h0.ne')
    have hi : N * 2 ^ c ≤ 2 ^ 24 := by
      have : N * 2 ^ c < 2 ^ (Nat.log2 N + 1) * 2 ^ c := Nat.mul_lt_mul_of_pos_right Nat.lt_log2_self (by positivity)
      rw [← pow_add, show Nat.log2 N + 1 + c = 24 by omega] at this
      exact this.le
    refine ⟨(149 - c) * 2 ^ 23 + N * 2 ^ c, by unfold F32.infMag; omega, ?_⟩
    rw [magUnits_ulp hi (.inr lo), mul_assoc, ← pow_add, show c + (149 - c) = 149 by omega]
  · refine ⟨150 * 2 ^ 23 + 2 ^ 23, by norm_num, ?_⟩
    rw [magUnits_ulp (by norm_num) (.inr le_rfl), ← pow_add, ← pow_add]

/-- A whole number of magnitude up to `2^24` is the value of a finite pattern. -/
theorem exists_toReal_eq_int {n : ℤ} (h : n.natAbs ≤ 2 ^ 24) :
    ∃ b, F32.isFinite b = true ∧ F32.toReal b = (n : ℝ) := by
  obtain h0 | h0 := Nat.eq_zero_or_pos n.natAbs
  · have hn : n = 0 := Int.natAbs_eq_zero.mp h0
    refine ⟨F32.pack false 0, isFinite_pack false (by norm_num), ?_⟩
    rw [toReal_pack false (by norm_num), hn]
    simp [magUnits]
  · obtain ⟨M, hM, hunits⟩ := exists_magUnits_eq h0 h
    refine ⟨F32.pack (decide (n < 0)) M, isFinite_pack _ hM, ?_⟩
    have cancel : (2 : ℝ) ^ 149 * 2 ^ (-149 : ℤ) = 1 := by
      rw [← zpow_natCast, ← zpow_add₀ two_ne_zero]; norm_num
    rw [toReal_pack _ hM, hunits, Nat.cast_mul, Nat.cast_pow, Nat.cast_ofNat, mul_assoc, mul_assoc, cancel, mul_one,
      signFactor_mul_natAbs]

/-- A real that a finite number has for its value is rounded to that value. -/
theorem toReal_of_nearestEven {x : ℝ} {a b : F32} (h : F32.NearestEven x a) (hx : |x| < 2 ^ 128 - 2 ^ 103)
    (hb : F32.isFinite b = true) (hv : F32.toReal b = x) : F32.isFinite a = true ∧ F32.toReal a = x := by
  obtain ⟨-, -, inside⟩ := h
  obtain ⟨hfin, near⟩ := inside hx
  refine ⟨hfin, ?_⟩
  have := (near b hb).1
  rw [hv, sub_self, abs_zero] at this
  exact sub_eq_zero.mp (abs_nonpos_iff.mp this)

theorem i2f_exact {n : ℤ} (h : n.natAbs ≤ 2 ^ 24) :
    F32.isFinite (num.i2f n) = true ∧ F32.toReal (num.i2f n) = (n : ℝ) := by
  obtain ⟨b, hb, hv⟩ := exists_toReal_eq_int h
  have rounded := nearestEven_roundMag_int n 0
  rw [zpow_zero, mul_one] at rounded
  refine toReal_of_nearestEven rounded ?_ hb hv
  have : |(n : ℝ)| ≤ 2 ^ 24 := by
    rw [← Int.cast_abs, ← Nat.cast_natAbs]
    exact_mod_cast h
  exact this.trans_lt (by norm_num)

/-- Settles O51: a whole number up to `2^24` is a finite number, so it is rounded to itself. -/
theorem integerConversionIsExact : Obligations.IntegerConversionIsExact :=
  ⟨fun _ h => i2f_exact h, fun a _ => ltZero_iff a⟩

/-! ### The constants -/

theorem halfEven_eq_of_abs_sub_lt {y : ℝ} (hy : 0 ≤ y) {m : Nat} (h : |y - m| < 1 / 2) : halfEven y = m := by
  obtain ⟨half, -⟩ := halfEven_spec hy
  obtain ⟨h1, h2⟩ := abs_lt.mp h
  obtain ⟨h3, h4⟩ := abs_le.mp half
  have upper : halfEven y < m + 1 := by exact_mod_cast (by linarith : (halfEven y : ℝ) < m + 1)
  have lower : m < halfEven y + 1 := by exact_mod_cast (by linarith : (m : ℝ) < halfEven y + 1)
  omega

/-- A real in the binade of `2^k`, within half a unit in the last place of the significand `m`. -/
theorem ofReal_eq_pack {x : ℝ} (k : ℤ) (m : Nat) (hk : -126 ≤ k) (hk' : k ≤ 126) (lo : (2 : ℝ) ^ k ≤ x)
    (hi : x < (2 : ℝ) ^ (k + 1)) (hm : |x / 2 ^ (k - 23) - m| < 1 / 2) :
    F32.ofReal x = F32.pack false ((k + 126).toNat * 2 ^ 23 + m) := by
  have hx : 0 < x := lt_of_lt_of_le (by positivity) lo
  have hulp : ulpOf x = k - 23 := by
    rw [ulpOf, log_eq_of_mem_binade lo hi, ulpExp]
    omega
  have round : roundReal x = (k + 126).toNat * 2 ^ 23 + m := by
    rw [roundReal, ulpIndex, inUlps, hulp, halfEven_eq_of_abs_sub_lt (by positivity) hm]
    congr 3
    omega
  have small : roundReal x < F32.infMag := by
    refine roundReal_lt hx (hi.trans_le ?_)
    calc (2 : ℝ) ^ (k + 1) ≤ 2 ^ (127 : ℤ) := zpow_le_zpow_right₀ (by norm_num) (by omega)
      _ ≤ 2 ^ 128 - 2 ^ 103 := by norm_num
  have unfolded : F32.ofReal x = F32.pack (decide (x < 0)) (min (roundReal |x|) F32.infMag) := if_neg hx.ne'
  rw [unfolded, abs_of_pos hx, min_eq_left small.le, round, decide_eq_false hx.not_gt]

theorem sqrt_two_bounds : 1.41421356 < √2 ∧ √2 < 1.41421357 :=
  ⟨Real.lt_sqrt_of_sq_lt (by norm_num), (Real.sqrt_lt' (by norm_num)).mpr (by norm_num)⟩

theorem ofReal_k1 : F32.ofReal (RealConst.value .k1) = F32.const .k1 := by
  obtain ⟨lo, hi⟩ := sqrt_two_bounds
  have value : RealConst.value .k1 = 1048575 / 2 * √2 := by
    unfold RealConst.value
    rw [div_eq_iff (by positivity), mul_assoc, Real.mul_self_sqrt (by norm_num)]
    norm_num
  rw [value]
  refine (ofReal_eq_pack 19 11863272 (by norm_num) (by norm_num) ?_ ?_ ?_).trans (by decide) <;> norm_num
  · linarith
  · linarith
  · rw [abs_lt]
    constructor <;> linarith

theorem ofReal_k2 : F32.ofReal (RealConst.value .k2) = F32.const .k2 := by
  obtain ⟨lo, hi⟩ := sqrt_two_bounds
  have value : RealConst.value .k2 = √2 / 2 := by
    unfold RealConst.value
    rw [div_eq_div_iff (by positivity) two_ne_zero, Real.mul_self_sqrt (by norm_num), one_mul]
  rw [value]
  refine (ofReal_eq_pack (-1) 11863283 (by norm_num) (by norm_num) ?_ ?_ ?_).trans (by decide) <;> norm_num
  · linarith
  · linarith
  · rw [abs_lt]
    constructor <;> linarith

theorem ofReal_gyrk : F32.ofReal (RealConst.value .gyrk) = F32.const .gyrk := by
  have lo := Real.pi_gt_d20
  have hi := Real.pi_lt_d20
  unfold RealConst.value
  refine (ofReal_eq_pack (-10) 9150552 (by norm_num) (by norm_num) ?_ ?_ ?_).trans (by decide) <;> norm_num
  · linarith
  · linarith
  · rw [abs_lt]
    constructor <;> linarith

theorem ofReal_one : F32.ofReal (RealConst.value .one) = F32.const .one := by
  unfold RealConst.value
  exact (ofReal_eq_pack 0 8388608 (by norm_num) (by norm_num) (by norm_num) (by norm_num) (by norm_num)).trans
    (by decide)

/-- The row of a rate in the table of rule R132: the exponent and the significand of its half period. -/
def SampleRate.halfPeriodFields : SampleRate → ℤ × Nat
  | .hz1   => (-1, 8388608)
  | .hz10  => (-5, 13421773)
  | .hz25  => (-6, 10737418)
  | .hz50  => (-7, 10737418)
  | .hz100 => (-8, 10737418)
  | .hz200 => (-9, 10737418)

theorem ofReal_halfPeriod (r : SampleRate) :
    F32.ofReal (RealConst.value (.halfPeriod r)) = F32.const (.halfPeriod r) := by
  have rounded : F32.ofReal (RealConst.value (.halfPeriod r)) =
      F32.pack false (((SampleRate.halfPeriodFields r).1 + 126).toNat * 2 ^ 23 + (SampleRate.halfPeriodFields r).2) := by
    unfold RealConst.value
    refine ofReal_eq_pack _ _ ?_ ?_ ?_ ?_ ?_ <;> cases r <;>
      norm_num [SampleRate.halfPeriodFields, SampleRate.hertz, abs_lt]
  rw [rounded]
  cases r <;> decide

/-- Every constant the commands use is its real value, rounded (rules R111, R132). -/
theorem fconst_eq_ofReal (c : RealConst) : num.fconst c = F32.ofReal (RealConst.value c) := by
  cases c with
  | k1 => exact ofReal_k1.symm
  | k2 => exact ofReal_k2.symm
  | gyrk => exact ofReal_gyrk.symm
  | zero => exact (if_pos rfl).symm
  | one => exact ofReal_one.symm
  | halfPeriod r => exact (ofReal_halfPeriod r).symm

/-- Settles O48: the patterns are the rounded reals. -/
theorem constantsAreTheRoundedReals : Obligations.ConstantsAreTheRoundedReals := by
  intro c
  rw [fconst_eq_ofReal]
  exact nearestEven_ofReal _

/-- Settles O59: both records are whole, and `binary32` rounds. -/
theorem numberRecordsAreWhole : Obligations.NumberRecordsAreWhole := by
  refine ⟨rfl, rfl, ⟨fconst_eq_ofReal, ltZero_iff⟩, ⟨fun _ => rfl, fun a => decide_eq_true_iff⟩,
    fun n hn => ⟨(i2f_exact (hn.trans (by norm_num))).2, rfl⟩, nearestEven_ofReal⟩

/-! ### The decoder stays finite (rule R120) -/

/-- The powers of two that the decoder's bounds use are finite numbers. -/
theorem exists_toReal_eq_two_pow {j : Nat} (hj : j ≤ 127) :
    ∃ b, F32.isFinite b = true ∧ F32.toReal b = 2 ^ j := by
  have hM : (j + 126) * 2 ^ 23 + 2 ^ 23 < F32.infMag := by unfold F32.infMag; omega
  refine ⟨F32.pack false ((j + 126) * 2 ^ 23 + 2 ^ 23), isFinite_pack false hM, ?_⟩
  have exponent : ((23 + (j + 126) : ℕ) : ℤ) + -149 = j := by push_cast; ring
  rw [toReal_pack false hM, magUnits_ulp (by norm_num) (.inr le_rfl), ← pow_add, Nat.cast_pow, Nat.cast_ofNat,
    ← zpow_natCast, signFactor, if_neg Bool.false_ne_true, one_mul, ← zpow_add₀ two_ne_zero, exponent, zpow_natCast]

/-- `a` is a finite number of magnitude at most `2^j`. -/
def F32.Within (a : F32) (j : Nat) : Prop := F32.isFinite a = true ∧ |F32.toReal a| ≤ 2 ^ j

/-- Rounding does not leave the range up to a power of two. -/
theorem within_of_nearestEven {x : ℝ} {a : F32} {j : Nat} (hj : j ≤ 127) (h : F32.NearestEven x a)
    (hx : |x| ≤ 2 ^ j) : a.Within j := by
  obtain ⟨b, hb, hv⟩ := exists_toReal_eq_two_pow hj
  have hb' : F32.isFinite (F32.neg b) = true := by rwa [isFinite_neg]
  have small : |x| < 2 ^ 128 - 2 ^ 103 := by
    refine hx.trans_lt (lt_of_le_of_lt (pow_le_pow_right₀ one_le_two hj) ?_)
    norm_num
  obtain ⟨-, -, inside⟩ := h
  obtain ⟨hfin, near⟩ := inside small
  obtain ⟨xlo, xhi⟩ := abs_le.mp hx
  have upper := (near b hb).1
  have lower := (near (F32.neg b) hb').1
  rw [toReal_neg hb] at lower
  rw [hv, abs_of_nonneg (sub_nonneg.mpr xhi)] at upper
  rw [hv, abs_of_nonpos (sub_nonpos.mpr xlo)] at lower
  refine ⟨hfin, abs_le.mpr ⟨?_, ?_⟩⟩
  · linarith [neg_abs_le (F32.toReal a - x)]
  · linarith [le_abs_self (F32.toReal a - x)]

theorem within_i2f (r : BitVec 20) : F32.Within (num.i2f (r.toNat : Int)) 20 := by
  have hr := r.isLt
  obtain ⟨hfin, hv⟩ := i2f_exact (n := r.toNat) (by simp; omega)
  refine ⟨hfin, ?_⟩
  rw [hv, Int.cast_natCast, abs_of_nonneg (Nat.cast_nonneg _)]
  exact_mod_cast hr.le

/-- The divisor `K1` and the offset `K2` as numbers. -/
theorem toReal_k1_ge : F32.isFinite (num.fconst .k1) = true ∧ 2 ^ 19 ≤ F32.toReal (num.fconst .k1) := by
  have hk : F32.kind (num.fconst .k1) = .fin false 11863272 (-4) := by decide +kernel
  refine ⟨by rw [F32.isFinite, hk], ?_⟩
  rw [F32.toReal, hk]
  norm_num

theorem within_k2 : F32.Within (num.fconst .k2) 0 := by
  have hk : F32.kind (num.fconst .k2) = .fin false 11863283 (-24) := by decide +kernel
  refine ⟨by rw [F32.isFinite, hk], ?_⟩
  rw [F32.toReal, hk]
  norm_num [abs_le]

theorem within_one : F32.Within (num.fconst .one) 0 := by
  have hk : F32.kind (num.fconst .one) = .fin false 8388608 (-23) := by decide +kernel
  refine ⟨by rw [F32.isFinite, hk], ?_⟩
  rw [F32.toReal, hk]
  norm_num

theorem F32.Within.mono {a : F32} {i j : Nat} (h : a.Within i) (hij : i ≤ j) : a.Within j :=
  ⟨h.1, h.2.trans (pow_le_pow_right₀ one_le_two hij)⟩

theorem F32.Within.add {a b : F32} {j : Nat} (ha : a.Within j) (hb : b.Within j) (hj : j + 1 ≤ 127) :
    F32.Within (num.fadd a b) (j + 1) := by
  refine within_of_nearestEven hj (nearestEven_add ha.1 hb.1) ((abs_add_le _ _).trans ?_)
  rw [pow_succ]
  linarith [ha.2, hb.2]

theorem F32.Within.sub {a b : F32} {j : Nat} (ha : a.Within j) (hb : b.Within j) (hj : j + 1 ≤ 127) :
    F32.Within (num.fsub a b) (j + 1) := by
  refine within_of_nearestEven hj (nearestEven_sub ha.1 hb.1) ((abs_sub _ _).trans ?_)
  rw [pow_succ]
  linarith [ha.2, hb.2]

theorem F32.Within.mul {a b : F32} {i j : Nat} (ha : a.Within i) (hb : b.Within j) (hj : i + j ≤ 127) :
    F32.Within (num.fmul a b) (i + j) := by
  refine within_of_nearestEven hj (nearestEven_mul ha.1 hb.1) ?_
  rw [abs_mul, pow_add]
  exact mul_le_mul ha.2 hb.2 (abs_nonneg _) (by positivity)

/-- A stored component is at most 4 in magnitude. -/
theorem within_dequant (r : BitVec 20) : F32.Within (dequant num r) 2 := by
  obtain ⟨hk, hk1⟩ := toReal_k1_ge
  obtain ⟨hfin, hle⟩ := within_i2f r
  have hpos : 0 < F32.toReal (num.fconst .k1) := lt_of_lt_of_le (by norm_num) hk1
  have quotient : F32.Within (num.fdiv (num.i2f (r.toNat : Int)) (num.fconst .k1)) 1 := by
    refine within_of_nearestEven (by norm_num) (nearestEven_div hfin hk hpos.ne') ?_
    rw [abs_div, abs_of_pos hpos, div_le_iff₀ hpos]
    linarith
  exact quotient.sub (within_k2.mono (by norm_num)) (by norm_num)

/-- The omitted component is finite: a root of a number that is not negative, or zero. -/
theorem isFinite_omitted {c0 c1 c2 : F32} (h0 : c0.Within 2) (h1 : c1.Within 2) (h2 : c2.Within 2) :
    F32.isFinite (omitted num c0 c1 c2) = true := by
  have squares := ((h0.mul h0 (by norm_num)).add (h1.mul h1 (by norm_num)) (by norm_num)).add
    ((h2.mul h2 (by norm_num)).mono (by norm_num)) (by norm_num)
  have radicand := (within_one.mono (Nat.zero_le _)).sub squares (by norm_num)
  unfold omitted
  dsimp only
  split
  · decide
  · next hneg =>
    have nonneg := not_lt.mp fun h => hneg ((ltZero_iff _).mpr h)
    refine (within_of_nearestEven (j := 7) (by norm_num) (nearestEven_sqrt radicand.1 nonneg) ?_).1
    rw [abs_of_nonneg (Real.sqrt_nonneg _), Real.sqrt_le_left (by norm_num)]
    refine (le_abs_self _).trans (radicand.2.trans ?_)
    norm_num

/-- Settles O36: the stored components and the omitted one are finite, and nothing else is placed. -/
theorem decodeStaysFiniteUnderBinary32 : Obligations.DecodeStaysFiniteUnderBinary32 := by
  intro w i
  have h0 := within_dequant (rawField0 w)
  have h1 := within_dequant (rawField1 w)
  have h2 := within_dequant (rawField2 w)
  rw [q3Decode_q_of_axis num rfl, get_placeQuat]
  by_cases hi : BitVec.ofNat 2 i.val = axisField w
  · rw [hi, placeComponent_axis]
    exact isFinite_omitted h0 h1 h2
  · exact placeComponent_stored (P := fun c => F32.isFinite c = true) hi h0.1 h1.1 h2.1

end Sys2Proof.Machine
end

section
/-!
PROOFS, family `other`, sine and cosine (rule R113, log 1). The fixed-point sum differs from the partial Taylor sum by
the error of each truncated term, and each of these is at most the sum of the terms of `cosh 64`; the partial sum differs
from the sine or cosine by the tail of the exponential series. A free value is then held by the nearest number, which is
within half a unit in the last place.
-/

namespace Sys2Proof.Machine

/-! ### The partial Taylor sums -/

/-- `X^k / k!`. -/
noncomputable def taylorTerm (X : ℝ) (k : Nat) : ℝ := X ^ k / k.factorial

/-- `n` terms of the alternating sum from exponent `k` on, every second exponent. -/
noncomputable def alternating (X : ℝ) (k n : Nat) : ℝ := ∑ j ∈ Finset.range n, (-1) ^ j * taylorTerm X (k + 2 * j)

theorem taylorTerm_add_two (X : ℝ) (k : Nat) :
    taylorTerm X (k + 2) = taylorTerm X k * (X ^ 2 / ((k + 1) * (k + 2))) := by
  unfold taylorTerm
  rw [Nat.factorial_succ, Nat.factorial_succ]
  push_cast
  field_simp
  ring

theorem alternating_succ (X : ℝ) (k n : Nat) : alternating X k (n + 1) = taylorTerm X k - alternating X (k + 2) n := by
  unfold alternating
  rw [Finset.sum_range_succ', sub_eq_add_neg, add_comm, ← Finset.sum_neg_distrib]
  congr 1
  · simp
  · refine Finset.sum_congr rfl fun j _ => ?_
    rw [show k + 2 * (j + 1) = k + 2 + 2 * j by ring, pow_succ]
    ring

/-- The exponential series at `X·i`, split into its even and its odd terms. -/
theorem sum_exp_eq (X : ℝ) (n : Nat) :
    ∑ m ∈ Finset.range (2 * n), (X * Complex.I) ^ m / (m.factorial : ℂ) =
      (alternating X 0 n : ℂ) + (alternating X 1 n : ℂ) * Complex.I := by
  induction n with
  | zero => simp [alternating]
  | succ n ih =>
    have even : ((X : ℂ) * Complex.I) ^ (2 * n) = (-1) ^ n * X ^ (2 * n) := by
      rw [mul_pow, pow_mul Complex.I, Complex.I_sq, mul_comm]
    rw [Nat.mul_succ, Finset.sum_range_succ, Finset.sum_range_succ, ih, pow_succ, even]
    unfold alternating
    rw [Finset.sum_range_succ, Finset.sum_range_succ, taylorTerm, taylorTerm]
    push_cast
    rw [zero_add, add_comm 1 (2 * n), pow_succ]
    ring

/-- The tail of the exponential series after 400 terms, for arguments up to 64. -/
theorem exp_tail_le {X : ℝ} (h0 : 0 ≤ X) (h : X ≤ 64) :
    ‖Complex.exp (X * Complex.I) - ((alternating X 0 200 : ℂ) + (alternating X 1 200 : ℂ) * Complex.I)‖ ≤
      1 / 2 ^ 450 := by
  have norm : ‖(X : ℂ) * Complex.I‖ = X := by simp [abs_of_nonneg h0]
  have bound := Complex.exp_bound' (x := X * Complex.I) (n := 400) (by rw [norm]; push_cast; linarith)
  rw [norm, show 400 = 2 * 200 from rfl, sum_exp_eq] at bound
  refine bound.trans ?_
  calc X ^ (2 * 200) / ((2 * 200).factorial : ℝ) * 2 ≤ 64 ^ (2 * 200) / ((2 * 200).factorial : ℝ) * 2 := by gcongr
    _ ≤ 1 / 2 ^ 450 := by
      rw [div_mul_eq_mul_div, div_le_div_iff₀ (by positivity) (by positivity)]
      have : 64 ^ (2 * 200) * 2 * 2 ^ 450 ≤ 1 * (2 * 200).factorial := by decide +kernel
      exact_mod_cast this

theorem abs_cos_sub_le {X : ℝ} (h0 : 0 ≤ X) (h : X ≤ 64) : |alternating X 0 200 - Real.cos X| ≤ 1 / 2 ^ 450 := by
  have tail := (Complex.abs_re_le_norm _).trans (exp_tail_le h0 h)
  rw [abs_sub_comm]
  simpa [Complex.exp_ofReal_mul_I_re] using tail

theorem abs_sin_sub_le {X : ℝ} (h0 : 0 ≤ X) (h : X ≤ 64) : |alternating X 1 200 - Real.sin X| ≤ 1 / 2 ^ 450 := by
  have tail := (Complex.abs_im_le_norm _).trans (exp_tail_le h0 h)
  rw [abs_sub_comm]
  simpa [Complex.exp_ofReal_mul_I_im] using tail

/-! ### The error of the fixed-point terms -/

/-- The error of a term after `j` truncations. -/
noncomputable def truncationError (X : ℝ) (j : Nat) : ℝ := ∑ i ∈ Finset.range (j + 1), taylorTerm X (2 * i)

theorem taylorTerm_nonneg {X : ℝ} (h0 : 0 ≤ X) (k : Nat) : 0 ≤ taylorTerm X k := by
  unfold taylorTerm; positivity

theorem truncationError_le {X : ℝ} (h0 : 0 ≤ X) (h : X ≤ 64) (j : Nat) : truncationError X j ≤ 2 ^ 93 := by
  have series : truncationError X j ≤ Real.cosh X :=
    sum_le_hasSum _ (fun i _ => taylorTerm_nonneg h0 _) (Real.hasSum_cosh X)
  have small : Real.exp 64 ≤ 2 ^ 93 := by
    rw [show (64 : ℝ) = (64 : ℕ) * 1 by norm_num, Real.exp_nat_mul]
    calc Real.exp 1 ^ 64 ≤ 2.7182818286 ^ 64 := by gcongr; exact Real.exp_one_lt_d9.le
      _ ≤ 2 ^ 93 := by norm_num
  have le_exp : Real.cosh X ≤ Real.exp X := by
    rw [Real.cosh_eq]
    have : Real.exp (-X) ≤ Real.exp X := Real.exp_le_exp.mpr (by linarith)
    linarith
  exact (series.trans le_exp).trans ((Real.exp_le_exp.mpr h).trans small)

/-- One more truncation: the error is scaled as the term is, and at most 1 is added. -/
theorem truncationError_step {X : ℝ} (h0 : 0 ≤ X) {j k : Nat} (hk : 2 * j ≤ k) :
    truncationError X j * (X ^ 2 / ((k + 1) * (k + 2))) + 1 ≤ truncationError X (j + 1) := by
  have first : taylorTerm X (2 * 0) = 1 := by simp [taylorTerm]
  unfold truncationError
  rw [Finset.sum_range_succ' _ (j + 1), first, Finset.sum_mul]
  gcongr with i hi
  rw [Nat.mul_succ, taylorTerm_add_two]
  have hik : ((2 * i : ℕ) : ℝ) ≤ k := by
    have := Finset.mem_range.mp hi
    exact_mod_cast (by omega : 2 * i ≤ k)
  have := taylorTerm_nonneg h0 (2 * i)
  gcongr

/-- The scale of the fixed-point numbers, kept as one symbol. -/
noncomputable def fixedScale : ℝ := 2 ^ trigBits

theorem fixedScale_pos : 0 < fixedScale := by unfold fixedScale; positivity

theorem cast_two_pow_trigBits : ((2 ^ trigBits : ℕ) : ℝ) = fixedScale := by
  rw [Nat.cast_pow, Nat.cast_ofNat, fixedScale]

theorem cast_two_pow_two_mul_trigBits : ((2 ^ (2 * trigBits) : ℕ) : ℝ) = fixedScale ^ 2 := by
  rw [Nat.mul_comm, pow_mul, Nat.cast_pow, cast_two_pow_trigBits]

/-- The next fixed-point term is the scaled one, truncated. -/
theorem abs_truncated_sub_le (t x k : Nat) :
    |((t * (x * x) / (2 ^ (2 * trigBits) * ((k + 1) * (k + 2))) : ℕ) : ℝ)
      - t * (((x : ℝ) / fixedScale) ^ 2 / ((k + 1) * (k + 2)))| ≤ 1 := by
  have scale := fixedScale_pos
  have exact_term : (t : ℝ) * (((x : ℝ) / fixedScale) ^ 2 / ((k + 1) * (k + 2))) =
      ((t * (x * x) : ℕ) : ℝ) / ((2 ^ (2 * trigBits) * ((k + 1) * (k + 2)) : ℕ) : ℝ) := by
    rw [Nat.cast_mul (2 ^ (2 * trigBits)), cast_two_pow_two_mul_trigBits]
    push_cast
    field_simp
  rw [exact_term, ← Nat.floor_div_eq_div (K := ℝ), abs_sub_comm, abs_of_nonneg]
  · linarith [Nat.lt_floor_add_one (((t * (x * x) : ℕ) : ℝ) / ((2 ^ (2 * trigBits) * ((k + 1) * (k + 2)) : ℕ) : ℝ))]
  · exact sub_nonneg.mpr (Nat.floor_le (by positivity))

/-- The sign in front of the next term. -/
def termSign (minus : Bool) : ℝ := if minus then -1 else 1

theorem termSign_not (minus : Bool) : termSign (!minus) = -termSign minus := by
  cases minus <;> simp [termSign]

/-- The fixed-point sum against the partial Taylor sum, `2^93` for each term. -/
theorem abs_taylorSum_sub_le {x : Nat} {X : ℝ} (hX : X = (x : ℝ) / fixedScale) (h : X ≤ 64) (n : Nat) :
    ∀ (k j : Nat) (minus : Bool) (t : Nat) (acc : Int), 2 * j ≤ k →
      |(t : ℝ) - fixedScale * taylorTerm X k| ≤ truncationError X j →
      |(taylorSum n (x * x) k minus t acc : ℝ) - (acc + termSign minus * (fixedScale * alternating X k n))| ≤
        n * 2 ^ 93 := by
  have h0 : 0 ≤ X := hX ▸ div_nonneg (Nat.cast_nonneg x) fixedScale_pos.le
  induction n with
  | zero =>
    intro k j minus t acc _ _
    simp only [taylorSum, alternating, Finset.range_zero, Finset.sum_empty, mul_zero, add_zero,
      sub_self, abs_zero, Nat.cast_zero, zero_mul, le_refl]
  | succ n ih =>
    intro k j minus t acc hk ht
    have scaled : 0 ≤ X ^ 2 / (((k : ℝ) + 1) * (k + 2)) := by positivity
    have next : |((t * (x * x) / (2 ^ (2 * trigBits) * ((k + 1) * (k + 2))) : ℕ) : ℝ)
        - fixedScale * taylorTerm X (k + 2)| ≤ truncationError X (j + 1) := by
      have truncated := abs_truncated_sub_le t x k
      rw [← hX] at truncated
      have carried := mul_le_mul_of_nonneg_right ht scaled
      rw [← abs_of_nonneg scaled, ← abs_mul, abs_of_nonneg scaled, sub_mul, mul_assoc, ← taylorTerm_add_two] at carried
      exact (abs_sub_le _ _ _).trans ((add_le_add truncated carried).trans
        ((add_comm _ _).trans_le (truncationError_step h0 hk)))
    have rest := ih (k + 2) (j + 1) (!minus) _ (if minus then acc - (t : Int) else acc + (t : Int)) (by omega) next
    have here := ht.trans (truncationError_le h0 h j)
    have accumulated : ((if minus then acc - (t : Int) else acc + (t : Int) : ℤ) : ℝ) = acc + termSign minus * t := by
      cases minus <;> simp [termSign, sub_eq_add_neg]
    have sign : |termSign minus| = 1 := by cases minus <;> simp [termSign]
    rw [accumulated, termSign_not] at rest
    rw [taylorSum, alternating_succ]
    have split (total : ℝ) : total - (acc + termSign minus * (fixedScale * (taylorTerm X k - alternating X (k + 2) n))) =
        (total - (acc + termSign minus * t + -termSign minus * (fixedScale * alternating X (k + 2) n)))
          + termSign minus * (t - fixedScale * taylorTerm X k) := by ring
    rw [split]
    refine (abs_add_le _ _).trans ?_
    rw [abs_mul, sign, one_mul]
    push_cast
    linarith

/-- A sum within `200 · 2^93` of `2^512` times a Taylor sum is within `2^-400` of what that sum is near. -/
theorem abs_div_sub_le {total A f : ℝ} (h : |total - fixedScale * A| ≤ (trigTerms : ℕ) * 2 ^ 93)
    (hf : |A - f| ≤ 1 / 2 ^ 450) : |total / fixedScale - f| ≤ 1 / 2 ^ 400 := by
  have scale := fixedScale_pos
  have sum : |total / fixedScale - A| ≤ (trigTerms : ℕ) * 2 ^ 93 / fixedScale := by
    have split : total / fixedScale - A = (total - fixedScale * A) / fixedScale := by
      rw [sub_div, mul_div_cancel_left₀ _ scale.ne']
    rw [split, abs_div, abs_of_pos scale]
    gcongr
  have small : ((trigTerms : ℕ) : ℝ) * 2 ^ 93 / fixedScale ≤ 1 / 2 ^ 401 := by
    rw [div_le_div_iff₀ scale (by positivity)]
    have integers : trigTerms * 2 ^ 93 * 2 ^ 401 ≤ 2 ^ trigBits := by decide +kernel
    have reals := (Nat.cast_le (α := ℝ)).mpr integers
    rw [cast_two_pow_trigBits, Nat.cast_mul, Nat.cast_mul, Nat.cast_pow, Nat.cast_pow, Nat.cast_ofNat] at reals
    rwa [one_mul]
  have tail : (1 : ℝ) / 2 ^ 450 ≤ 1 / 2 ^ 401 := by gcongr <;> norm_num
  have halves : (1 : ℝ) / 2 ^ 401 + 1 / 2 ^ 401 = 1 / 2 ^ 400 := by rw [pow_succ, ← div_div, add_halves]
  exact (abs_sub_le _ A _).trans ((add_le_add (sum.trans small) (hf.trans tail)).trans_eq halves)

section
variable {x : Nat} (hx : x ≤ 64 * 2 ^ 512)
include hx

theorem div_fixedScale_le : (x : ℝ) / fixedScale ≤ 64 := by
  have reals := (Nat.cast_le (α := ℝ)).mpr hx
  rw [Nat.cast_mul, Nat.cast_pow, Nat.cast_ofNat, Nat.cast_ofNat] at reals
  exact (div_le_iff₀ fixedScale_pos).mpr reals

theorem cosSum_accurate :
    |(taylorSum trigTerms (x * x) 0 false (2 ^ trigBits) 0 : ℝ) / fixedScale - Real.cos ((x : ℝ) / fixedScale)| ≤
      1 / 2 ^ 400 := by
  have hX := div_fixedScale_le hx
  have h0 : 0 ≤ (x : ℝ) / fixedScale := div_nonneg (Nat.cast_nonneg x) fixedScale_pos.le
  have first : fixedScale * taylorTerm ((x : ℝ) / fixedScale) 0 = fixedScale := by simp [taylorTerm]
  have start : |((2 ^ trigBits : ℕ) : ℝ) - fixedScale * taylorTerm ((x : ℝ) / fixedScale) 0| ≤
      truncationError ((x : ℝ) / fixedScale) 0 := by
    rw [first, cast_two_pow_trigBits, sub_self, abs_zero]
    exact Finset.sum_nonneg fun i _ => taylorTerm_nonneg h0 _
  have sum := abs_taylorSum_sub_le rfl hX trigTerms 0 0 false _ 0 le_rfl start
  rw [Int.cast_zero, zero_add, termSign, if_neg Bool.false_ne_true, one_mul] at sum
  exact abs_div_sub_le sum (abs_cos_sub_le h0 hX)

theorem sinSum_accurate :
    |(taylorSum trigTerms (x * x) 1 false x 0 : ℝ) / fixedScale - Real.sin ((x : ℝ) / fixedScale)| ≤
      1 / 2 ^ 400 := by
  have hX := div_fixedScale_le hx
  have h0 : 0 ≤ (x : ℝ) / fixedScale := div_nonneg (Nat.cast_nonneg x) fixedScale_pos.le
  have first : fixedScale * taylorTerm ((x : ℝ) / fixedScale) 1 = x := by
    rw [taylorTerm, pow_one, Nat.factorial_one, Nat.cast_one, div_one, mul_div_cancel₀ _ fixedScale_pos.ne']
  have start : |(x : ℝ) - fixedScale * taylorTerm ((x : ℝ) / fixedScale) 1| ≤
      truncationError ((x : ℝ) / fixedScale) 0 := by
    rw [first, sub_self, abs_zero]
    exact Finset.sum_nonneg fun i _ => taylorTerm_nonneg h0 _
  have sum := abs_taylorSum_sub_le rfl hX trigTerms 1 0 false _ 0 (by norm_num) start
  rw [Int.cast_zero, zero_add, termSign, if_neg Bool.false_ne_true, one_mul] at sum
  exact abs_div_sub_le sum (abs_sin_sub_le h0 hX)

end

/-- An integer is its magnitude or the opposite of it. -/
theorem cast_eq_natAbs_or_neg (x : ℤ) :
    (0 ≤ x ∧ (x : ℝ) = (x.natAbs : ℝ)) ∨ (x < 0 ∧ (x : ℝ) = -(x.natAbs : ℝ)) := by
  rw [Nat.cast_natAbs, Int.cast_abs]
  obtain h | h := le_or_gt 0 x
  · exact .inl ⟨h, (abs_of_nonneg (Int.cast_nonneg h)).symm⟩
  · exact .inr ⟨h, by rw [abs_of_neg (Int.cast_lt_zero.mpr h), neg_neg]⟩

/-- Settles O52: the sums for the magnitude; the sine is odd and the cosine even. -/
theorem fixedPointSineAndCosineAreAccurate : Obligations.FixedPointSineAndCosineAreAccurate := by
  intro x hx
  change |(sinFixed x : ℝ) / fixedScale - Real.sin ((x : ℝ) / fixedScale)| ≤ 1 / 2 ^ 400 ∧
    |(cosFixed x : ℝ) / fixedScale - Real.cos ((x : ℝ) / fixedScale)| ≤ 1 / 2 ^ 400
  have sine := sinSum_accurate hx
  have cosine := cosSum_accurate hx
  obtain ⟨hpos, cast⟩ | ⟨hneg, cast⟩ := cast_eq_natAbs_or_neg x
  · rw [cast]
    refine ⟨?_, cosine⟩
    have value : sinFixed x = taylorSum trigTerms (x.natAbs * x.natAbs) 1 false x.natAbs 0 := if_neg hpos.not_gt
    rw [value]
    exact sine
  · rw [cast, neg_div, Real.cos_neg, Real.sin_neg]
    refine ⟨?_, cosine⟩
    have value : sinFixed x = -taylorSum trigTerms (x.natAbs * x.natAbs) 1 false x.natAbs 0 := if_pos hneg
    rw [value, Int.cast_neg, neg_div, neg_sub_neg, abs_sub_comm]
    exact sine

end Sys2Proof.Machine
end

section
/-!
PROOFS, family `other`, the free values of sine and cosine (rule R113, log 1): the number nearest to a fixed-point value
is within half a unit in the last place of it, so that whatever the free value is, what is held is within one.
-/

namespace Sys2Proof.Machine

theorem exponent_ge_of_kind {a : F32} {s : Bool} {m : Nat} {e : ℤ} (h : F32.kind a = .fin s m e) : -149 ≤ e := by
  have hfin : F32.isFinite a = true := by rw [F32.isFinite, h]
  rw [kind_of_mag_lt ((isFinite_iff a).mp hfin)] at h
  by_cases hs : F32.mag a < 2 ^ 23
  · rw [if_pos hs] at h
    cases h
    exact le_rfl
  · rw [if_neg hs] at h
    cases h
    omega

theorem two_zpow_trigBits : (2 : ℝ) ^ (trigBits : ℤ) = fixedScale := zpow_natCast 2 trigBits

/-- A finite number as a fixed-point number. -/
theorem cast_trigScale {a : F32} {s : Bool} {m : Nat} {e : ℤ} (h : F32.kind a = .fin s m e) :
    (trigScale s m e : ℝ) = F32.toReal a * fixedScale := by
  have he := exponent_ge_of_kind h
  have scale : (2 : ℝ) ^ (e + (trigBits : ℤ)).toNat = 2 ^ e * fixedScale := by
    rw [← two_zpow_trigBits, ← zpow_add₀ two_ne_zero, ← zpow_natCast, Int.toNat_of_nonneg]
    exact le_trans (by norm_num) (add_le_add_left he _)
  rw [trigScale, F32.toReal, h, Int.cast_mul, Int.cast_natCast, Nat.cast_mul, Nat.cast_pow, Nat.cast_ofNat, scale]
  cases s <;> simp [mul_assoc]

theorem withinUlp_iff {v : ℤ} {f : F32} {s : Bool} {m : Nat} {e : ℤ} (h : F32.kind f = .fin s m e) :
    withinUlp v f = true ↔
      (trigScale s m e - v).natAbs ≤ 1 * 2 ^ (fixedUlpExp v + (trigBits : ℤ)).toNat := by
  rw [withinUlp, h]
  exact decide_eq_true_iff

/-- The magnitude of a fixed-point value as a real, in the form that the model's rounding has it. -/
theorem natAbs_div_eq (v : ℤ) : (v.natAbs : ℝ) / (1 : ℕ) * 2 ^ (-(trigBits : ℤ)) = |(v : ℝ)| / fixedScale := by
  rw [zpow_neg, two_zpow_trigBits, Nat.cast_one, div_one, Nat.cast_natAbs, Int.cast_abs, div_eq_mul_inv]

section
variable {v : ℤ} (hv : v ≠ 0)
include hv

theorem fixedUlpExp_eq : fixedUlpExp v = ulpOf (|(v : ℝ)| / fixedScale) := by
  have pos : 0 < v.natAbs := Int.natAbs_pos.mpr hv
  rw [fixedUlpExp, if_neg hv, floorLog2_eq pos one_pos, ← natAbs_div_eq, ulpOf,
    log_mul_two_zpow (by positivity), sub_eq_add_neg]

/-- The nearest number to a fixed-point value in range is within half a unit in the last place. -/
theorem abs_toReal_nearestF32_sub_le (hle : |(v : ℝ)| ≤ 2 * fixedScale) :
    F32.isFinite (nearestF32 v) = true ∧
      |F32.toReal (nearestF32 v) * fixedScale - v| ≤ 1 / 2 * 2 ^ ulpOf (|(v : ℝ)| / fixedScale) * fixedScale := by
  have scale := fixedScale_pos
  set x := |(v : ℝ)| / fixedScale with hx
  have pos : 0 < x := div_pos (abs_pos.mpr (Int.cast_ne_zero.mpr hv)) scale
  have small : roundReal x < F32.infMag :=
    roundReal_lt pos (lt_of_le_of_lt ((div_le_iff₀ scale).mpr hle) (by norm_num))
  have rounded : nearestF32 v = F32.pack (decide (v < 0)) (roundReal x) := by
    rw [nearestF32, roundMag_eq (Int.natAbs_pos.mpr hv) one_pos, natAbs_div_eq, min_eq_left small.le]
  have signed : (v : ℝ) = signFactor (decide (v < 0)) * x * fixedScale := by
    rw [mul_assoc, hx, div_mul_cancel₀ _ scale.ne', ← Int.cast_abs, ← Nat.cast_natAbs, signFactor_mul_natAbs]
  have value : F32.toReal (nearestF32 v) = signFactor (decide (v < 0)) * F32.toReal (F32.pack false (roundReal x)) := by
    rw [rounded, toReal_pack _ small, toReal_pack _ small]
    simp [signFactor]
  have unit (s : Bool) : |signFactor s| = 1 := by cases s <;> simp [signFactor]
  obtain ⟨half, -⟩ := halfEven_spec (inUlps_pos pos).le
  refine ⟨rounded ▸ isFinite_pack _ small, ?_⟩
  conv_lhs => rw [signed]
  rw [value, toReal_roundReal pos small, ← sub_mul, ← mul_sub, abs_mul, abs_mul, unit, one_mul, abs_mul_ulp_sub,
    abs_of_pos scale]
  gcongr

end

theorem withinUlp_nearestF32 {v : ℤ} (hle : |(v : ℝ)| ≤ 2 * fixedScale) : withinUlp v (nearestF32 v) = true := by
  by_cases hv : v = 0
  · subst hv
    decide +kernel
  obtain ⟨hfin, near⟩ := abs_toReal_nearestF32_sub_le hv hle
  obtain ⟨s, m, e, hk, -, -⟩ := exists_kind_eq_fin hfin
  have hulp : -149 ≤ fixedUlpExp v := by
    rw [fixedUlpExp_eq hv]
    exact le_max_right _ _
  have unit : (2 : ℝ) ^ (fixedUlpExp v + (trigBits : ℤ)).toNat = 2 ^ fixedUlpExp v * fixedScale := by
    rw [← two_zpow_trigBits, ← zpow_add₀ two_ne_zero, ← zpow_natCast, Int.toNat_of_nonneg]
    exact le_trans (by norm_num) (add_le_add_left hulp _)
  rw [withinUlp_iff hk, one_mul]
  have real : |((trigScale s m e - v : ℤ) : ℝ)| ≤ 2 ^ (fixedUlpExp v + (trigBits : ℤ)).toNat := by
    rw [Int.cast_sub, cast_trigScale hk, unit, fixedUlpExp_eq hv]
    refine near.trans ?_
    have : 0 < (2 : ℝ) ^ ulpOf (|(v : ℝ)| / fixedScale) * fixedScale := mul_pos (by positivity) fixedScale_pos
    linarith
  rw [← Int.cast_abs, ← Nat.cast_natAbs] at real
  exact_mod_cast real

/-- Whatever the free value, what is held is within the bound. -/
theorem withinUlp_heldNear {v : ℤ} (hle : |(v : ℝ)| ≤ 2 * fixedScale) (f : F32) :
    withinUlp v (heldNear v f) = true := by
  unfold heldNear
  split
  · next h => exact h
  · exact withinUlp_nearestF32 hle

/-- A fixed-point value near a number of magnitude at most 1 is in range. -/
theorem abs_le_of_near {v : ℤ} {f δ : ℝ} (hf : |f| ≤ 1) (hδ : δ ≤ 1) (h : |(v : ℝ) / fixedScale - f| ≤ δ) :
    |(v : ℝ)| ≤ 2 * fixedScale := by
  have bound : |(v : ℝ) / fixedScale| ≤ 2 := by
    have := abs_sub_abs_le_abs_sub ((v : ℝ) / fixedScale) f
    linarith
  rwa [abs_div, abs_of_pos fixedScale_pos, div_le_iff₀ fixedScale_pos] at bound

theorem trigBounded_of_le {x : ℤ} (h : x.natAbs ≤ 64 * 2 ^ 512) : trigBounded x = true := by
  unfold trigBounded trigBits
  exact decide_eq_true h

/-- Settles O53: at +0 the values are the rule's own, and elsewhere they are held near the sums, which are in range. -/
theorem sineAndCosineAreHeldWithinOneUlp : Obligations.SineAndCosineAreHeldWithinOneUlp := by
  refine ⟨fun a s m e hk hle => ?_, rfl, rfl⟩
  by_cases h0 : a = 0#32
  · subst h0
    have zero : F32.kind 0#32 = .fin false 0 (-149) := by decide +kernel
    rw [zero] at hk
    cases hk
    decide +kernel
  · obtain ⟨sine, cosine⟩ := fixedPointSineAndCosineAreAccurate (trigScale s m e) hle
    have bounded : trigBounded (trigScale s m e) = true := trigBounded_of_le hle
    have small : (1 : ℝ) / 2 ^ 400 ≤ 1 := div_le_one_of_le₀ (one_le_pow₀ one_le_two) (by positivity)
    have fsin : num.fsin a = heldNear (sinFixed (trigScale s m e)) (Config.freeSin a) := by
      change F32.sinFrom Config.freeSin a = _
      rw [F32.sinFrom, if_neg h0, hk]
      exact if_pos bounded
    have fcos : num.fcos a = heldNear (cosFixed (trigScale s m e)) (Config.freeCos a) := by
      change F32.cosFrom Config.freeCos a = _
      rw [F32.cosFrom, if_neg h0, hk]
      exact if_pos bounded
    rw [fsin, fcos]
    exact ⟨withinUlp_heldNear (abs_le_of_near (Real.abs_sin_le_one _) small sine) _,
      withinUlp_heldNear (abs_le_of_near (Real.abs_cos_le_one _) small cosine) _⟩

end Sys2Proof.Machine
end
